-- ==== Sys2Proof/Word.lean ====
section
/-!
DEFINITION. The word of the machine (00_scope.md R6, 10_state.md R10) and the narrower quantities it is
built from. Plain abbreviations of bit vectors: `toNat` is the spec's `u(v)`, `toInt` its `s(v)`.
-/

namespace Sys2Proof

/-- R10: every datum the core moves, 16 bits, arithmetic modulo 2^16. -/
abbrev Word := BitVec 16

/-- R18: one element of the output stream. -/
abbrev Byte := BitVec 8

/-- R51: a register field, 0 to 7. Every value names a register (R11). -/
abbrev RegNum := BitVec 3

/-- R51, R54: the immediate field, 0 to 63, unsigned. -/
abbrev Imm6 := BitVec 6

/-- R71: the ALU control code `d = zx, nx, zy, ny, f, no`, `zx` the most significant bit. -/
abbrev AluCode := BitVec 6

end Sys2Proof
end

