-- ==== Sys2Proof/Config.lean ====
section
/-!
DEFINITION. The implementation parameters of 00_scope.md R5 that are fixed numbers, and the free values the
spec leaves without a value. (The parameters that are tables, OPMAP, ALU_CODE and HALT_CODE, stand
with what they index: `opmap` and `aluCode` in Decode.lean, `haltCode` in Machine/Ops.lean. DEPTH_BITS,
which R5 leaves OPEN, is the field `depthBits` of State: log entry 1.)
-/

namespace Sys2Proof

/-- R5 `MEM_WORDS`: valid addresses are 0 to 399. -/
abbrev Config.memWords : Nat := 400

/-- R5 `SP_INIT`: the stack pointer after load, and the "stack empty" value (R13). -/
abbrev Config.spInit : Word := 399#16

/-- R5 `PORT_ADDR`: the one address whose writes also emit a byte (R32). -/
abbrev Config.portAddr : Nat := 32

/-- R5 `DEPTH_BITS`, OPEN, "suggested 32". Used ONLY as the reset value of `State.depthBits`:
no rule and no statement rests on it.
DESIGN CHOICE (log entry 1); unsafe if a claim used the number. -/
def Config.depthBitsSuggested : Nat := 32

/-- R74, U1: the ALU's `out` under an undefined control code has no value the spec states. A free value: a
function of the present inputs, as R77 says all outputs are, and nothing more is known of it.
DESIGN CHOICE (log entry 5); safe: a claim holds whatever it is. -/
opaque Config.aluUndefinedOut : Word → Word → AluCode → Word

/-- R74, U1: `zr` under an undefined control code, free as `Config.aluUndefinedOut` is (log entry 5). -/
opaque Config.aluUndefinedZr : Word → Word → AluCode → Bool

/-- R74, U1: `ng` under an undefined control code, free as `Config.aluUndefinedOut` is (log entry 5). -/
opaque Config.aluUndefinedNg : Word → Word → AluCode → Bool

/-- R74, U1: `ov` under an undefined control code, free as `Config.aluUndefinedOut` is (log entry 5). -/
opaque Config.aluUndefinedOv : Word → Word → AluCode → Bool

/-- R74, U1: `cy` under an undefined control code, free as `Config.aluUndefinedOut` is (log entry 5). -/
opaque Config.aluUndefinedCy : Word → Word → AluCode → Bool

end Sys2Proof
end

