-- ==== Sys2Proof/Syntax.lean ====
section
/-!
DEFINITION. The syntax of the machine: the instruction fields, the mnemonics, the ALU functions, the one
inductive `Instr` with a constructor for every row of spec/opcode_table.json, the two kinds of
encoded instruction, and the assembler's forms.
-/

namespace Sys2Proof

/-- R51, R52: the operand fields of a format F word. All three are extracted for EVERY
instruction, "whether or not the instruction uses them", so every constructor of format F carries them. -/
structure Fields where
  reg1 : RegNum
  reg2 : RegNum
  imm  : Imm6
deriving DecidableEq, Repr

/-- R55: the 15 defined mnemonics, in the order of the source's table. -/
inductive Opcode where
  | nop | mov | add | sub | and | or | mul | div | jmp | jz | call | ret | halt | load | store
deriving DecidableEq, Repr

/-- R73: the 20 functions of the ALU. -/
inductive AluFn where
  | zero | one | minus1 | passx | passy | notx | noty | negx | negy
  | incx | incy | decx | decy | add | subxy | subyx | and | or | mul | div
deriving DecidableEq, Repr

/-- One constructor per row of spec/opcode_table.json: the 15 instructions and the reserved opcode in format F
(R55, R57), and the 20 control codes of the ALU in format ALU6 (R73). An ALU6 operation
takes its operands from the ALU's inputs `x` and `y` (R70), so it carries no field. -/
inductive Instr where
  /-- NOP, R140. -/
  | nop (f : Fields)
  /-- MOV, R141. -/
  | mov (f : Fields)
  /-- ADD, R145. -/
  | add (f : Fields)
  /-- SUB, R146. -/
  | sub (f : Fields)
  /-- AND, R147. -/
  | and (f : Fields)
  /-- OR, R148. -/
  | or (f : Fields)
  /-- MUL, R149. -/
  | mul (f : Fields)
  /-- DIV, R150. -/
  | div (f : Fields)
  /-- JMP, R160. -/
  | jmp (f : Fields)
  /-- JZ, R161. -/
  | jz (f : Fields)
  /-- CALL, R162. -/
  | call (f : Fields)
  /-- RET, R163. -/
  | ret (f : Fields)
  /-- HALT, R164. -/
  | halt (f : Fields)
  /-- LOAD, R175. -/
  | load (f : Fields)
  /-- STORE, R176. -/
  | store (f : Fields)
  /-- RESERVED_15: opcode 15, which selects no instruction, R57. -/
  | reserved15 (f : Fields)
  /-- ALU.ZERO, R80. -/
  | aluZero
  /-- ALU.ONE, R81. -/
  | aluOne
  /-- ALU.MINUS1, R82. -/
  | aluMinus1
  /-- ALU.PASSX, R83. -/
  | aluPassx
  /-- ALU.PASSY, R84. -/
  | aluPassy
  /-- ALU.NOTX, R85. -/
  | aluNotx
  /-- ALU.NOTY, R86. -/
  | aluNoty
  /-- ALU.NEGX, R87. -/
  | aluNegx
  /-- ALU.NEGY, R88. -/
  | aluNegy
  /-- ALU.INCX, R89. -/
  | aluIncx
  /-- ALU.INCY, R90. -/
  | aluIncy
  /-- ALU.DECX, R91. -/
  | aluDecx
  /-- ALU.DECY, R92. -/
  | aluDecy
  /-- ALU.ADD, R93. -/
  | aluAdd
  /-- ALU.SUBXY, R94. -/
  | aluSubxy
  /-- ALU.SUBYX, R95. -/
  | aluSubyx
  /-- ALU.AND, R96. -/
  | aluAnd
  /-- ALU.OR, R97. -/
  | aluOr
  /-- ALU.MUL, R98. -/
  | aluMul
  /-- ALU.DIV, R99. -/
  | aluDiv
deriving DecidableEq, Repr

/-- An encoded instruction: a 16-bit word of format F (R50), or a 6-bit control code of
format ALU6 (R71), which is "a second, separate encoding" (30_encoding.md). -/
inductive Code where
  | word (w : Word)
  | alu6 (d : AluCode)
deriving DecidableEq, Repr

/-- Why a code decodes to nothing. -/
inductive DecodeError where
  /-- R74: one of the 44 control codes that select no ALU function. Raised by `decode`; safe: the ALU still
  reports the condition (`State.aluReportUndefined`). No word of format F is refused (R52). -/
  | unimplementedAluCode (d : AluCode)
deriving DecidableEq, Repr

/-- R59: the assembler's forms, after the text has been read: register numbers, immediates and words are
the numbers written, of any size, and a label is the address it stands for. -/
inductive Asm where
  /-- `MNEMONIC`: NOP, RET, HALT. -/
  | bare (m : Opcode)
  /-- `MNEMONIC rA, imm`: MOV, ADD, SUB. -/
  | regImm (m : Opcode) (a imm : Nat)
  /-- `MNEMONIC rA, rB`: AND, OR, MUL, DIV, LOAD, STORE. -/
  | regReg (m : Opcode) (a b : Nat)
  /-- `MNEMONIC imm`: JMP, JZ, CALL. -/
  | target (m : Opcode) (imm : Nat)
  /-- `.word v`. -/
  | literal (v : Nat)
deriving DecidableEq, Repr

end Sys2Proof
end

