-- ==== Sys2Proof/WellFormed.lean ====
section
/-!
DEFINITION. What is well formed. The width of every field is carried by its type (R51: the four fields tile the
word), so no term of `Instr` is out of range; what is left to check of an instruction is what R56 calls
the canonical encoding (0 in every unused field) and what 90_conflicts.md C4 calls a well-formed program
(no reserved opcode). The decoder accepts every word whether or not it is well formed (R52, R56, R58).
What an assembler line must satisfy (R59) is checked by `Asm.wf`.
-/

namespace Sys2Proof

/-- R55, R56: the fields the mnemonic does not use are 0. -/
def Fields.unusedZero (m : Opcode) (f : Fields) : Bool :=
  match m with
  | .nop | .ret | .halt => f.reg1 == 0 && f.reg2 == 0 && f.imm == 0
  | .mov | .add | .sub => f.reg2 == 0
  | .and | .or | .mul | .div | .load | .store => f.imm == 0
  | .jmp | .jz | .call => f.reg1 == 0 && f.reg2 == 0

/-- R56, C4: the instruction is one of the 15 (or an ALU function) in its canonical form. -/
def Instr.wf (i : Instr) : Bool :=
  match i with
  | .nop f => f.unusedZero .nop
  | .mov f => f.unusedZero .mov
  | .add f => f.unusedZero .add
  | .sub f => f.unusedZero .sub
  | .and f => f.unusedZero .and
  | .or f => f.unusedZero .or
  | .mul f => f.unusedZero .mul
  | .div f => f.unusedZero .div
  | .jmp f => f.unusedZero .jmp
  | .jz f => f.unusedZero .jz
  | .call f => f.unusedZero .call
  | .ret f => f.unusedZero .ret
  | .halt f => f.unusedZero .halt
  | .load f => f.unusedZero .load
  | .store f => f.unusedZero .store
  | .reserved15 _ => false
  | .aluZero | .aluOne | .aluMinus1 | .aluPassx | .aluPassy => true
  | .aluNotx | .aluNoty | .aluNegx | .aluNegy => true
  | .aluIncx | .aluIncy | .aluDecx | .aluDecy => true
  | .aluAdd | .aluSubxy | .aluSubyx | .aluAnd | .aluOr | .aluMul | .aluDiv => true

/-- R59: the line is of the form its mnemonic takes, its registers are r0 to r7, its immediate is 0 to 63
("An immediate outside 0 to 63 is an assembly error in this syntax") and a literal is a Word. -/
def Asm.wf (a : Asm) : Bool :=
  match a with
  | .bare m => m == .nop || m == .ret || m == .halt
  | .regImm m r imm => (m == .mov || m == .add || m == .sub) && decide (r < 8) && decide (imm < 64)
  | .regReg m r q =>
    (m == .and || m == .or || m == .mul || m == .div || m == .load || m == .store)
      && decide (r < 8) && decide (q < 8)
  | .target m imm => (m == .jmp || m == .jz || m == .call) && decide (imm < 64)
  | .literal v => decide (v < 65536)

end Sys2Proof
end

