-- ==== Sys2Proof/Decode.lean ====
section
/-!
DEFINITION. The decoder (30_encoding.md R52, R55, R57; 40_alu.md R71, R73), total on every word and every control
code, and after it the encoder (R53), the assembler (R59) and `decodeTableWord`.
-/

namespace Sys2Proof

/-! ## The encoding tables -/

/-- R55, R5 `OPMAP`: the opcode value that selects each mnemonic. -/
def opmap (m : Opcode) : BitVec 4 :=
  match m with
  | .nop => 0 | .mov => 1 | .add => 2 | .sub => 3 | .and => 4 | .or => 5 | .mul => 6 | .div => 7
  | .jmp => 8 | .jz => 9 | .call => 10 | .ret => 11 | .halt => 12 | .load => 13 | .store => 14

/-- R57: the one opcode value that selects no instruction. -/
def reservedOpcode : BitVec 4 := 15

/-- R55: the mnemonics, in table order. -/
def opcodes : List Opcode :=
  [.nop, .mov, .add, .sub, .and, .or, .mul, .div, .jmp, .jz, .call, .ret, .halt, .load, .store]

/-- R73, R5 `ALU_CODE`: the control code of each ALU function. -/
def aluCode (g : AluFn) : AluCode :=
  match g with
  | .zero => 0b101010 | .one => 0b111111 | .minus1 => 0b111010
  | .passx => 0b001100 | .passy => 0b110000 | .notx => 0b001101 | .noty => 0b110001
  | .negx => 0b001111 | .negy => 0b110011
  | .incx => 0b011111 | .incy => 0b110111 | .decx => 0b001110 | .decy => 0b110010
  | .add => 0b000010 | .subxy => 0b010011 | .subyx => 0b000111
  | .and => 0b000000 | .or => 0b010101 | .mul => 0b100000 | .div => 0b100001

/-- R73: the ALU functions, in table order. -/
def aluFns : List AluFn :=
  [.zero, .one, .minus1, .passx, .passy, .notx, .noty, .negx, .negy, .incx, .incy, .decx, .decy,
   .add, .subxy, .subyx, .and, .or, .mul, .div]

/-! ## The decoder -/

/-- R52: the four fields of a word, `opcode = w[15:12]`, `reg1 = w[11:9]`, `reg2 = w[8:6]`, `imm = w[5:0]`. -/
def decodeFields (w : Word) : BitVec 4 × Fields :=
  (w.extractLsb' 12 4,
    { reg1 := w.extractLsb' 9 3, reg2 := w.extractLsb' 6 3, imm := w.extractLsb' 0 6 })

/-- R124: the mnemonic an opcode value selects; none for the reserved value (R57). -/
def opcodeOf (op : BitVec 4) : Option Opcode :=
  opcodes.find? (fun m => opmap m == op)

/-- R124: the instruction of a mnemonic. -/
def instrOf (m : Opcode) (f : Fields) : Instr :=
  match m with
  | .nop => .nop f | .mov => .mov f | .add => .add f | .sub => .sub f | .and => .and f | .or => .or f
  | .mul => .mul f | .div => .div f | .jmp => .jmp f | .jz => .jz f | .call => .call f | .ret => .ret f
  | .halt => .halt f | .load => .load f | .store => .store f

/-- R52, R123, R124: the instruction of a word. Total: "Decoding cannot fail". -/
def decodeWord (w : Word) : Instr :=
  match opcodeOf (decodeFields w).1 with
  | some m => instrOf m (decodeFields w).2
  | none => .reserved15 (decodeFields w).2

/-- R73: the ALU function a control code selects, "by exact value"; none for an undefined code (R74). -/
def aluFnOf (d : AluCode) : Option AluFn :=
  aluFns.find? (fun g => aluCode g == d)

/-- The constructor of `Instr` that stands for an ALU function. -/
def aluInstr (g : AluFn) : Instr :=
  match g with
  | .zero => .aluZero | .one => .aluOne | .minus1 => .aluMinus1
  | .passx => .aluPassx | .passy => .aluPassy | .notx => .aluNotx | .noty => .aluNoty
  | .negx => .aluNegx | .negy => .aluNegy
  | .incx => .aluIncx | .incy => .aluIncy | .decx => .aluDecx | .decy => .aluDecy
  | .add => .aluAdd | .subxy => .aluSubxy | .subyx => .aluSubyx
  | .and => .aluAnd | .or => .aluOr | .mul => .aluMul | .div => .aluDiv

/-- The decoder on both kinds of code. A word always decodes; an undefined control code is refused by name. -/
def decode (c : Code) : Except DecodeError Instr :=
  match c with
  | .word w => .ok (decodeWord w)
  | .alu6 d =>
    match aluFnOf d with
    | some g => .ok (aluInstr g)
    | none => .error (.unimplementedAluCode d)

/-! ## The encoder -/

/-- R53: the fields "masked to their width before packing", the opcode in the most significant place. Keeping
the low bits of a number is what `BitVec.ofNat` does, and `++` puts its left argument higher. -/
def encodeFields (op r1 r2 imm : Nat) : Word :=
  BitVec.ofNat 4 op ++ BitVec.ofNat 3 r1 ++ BitVec.ofNat 3 r2 ++ BitVec.ofNat 6 imm

/-- R53 on fields that already have their width. -/
def packWord (op : BitVec 4) (f : Fields) : Word :=
  encodeFields op.toNat f.reg1.toNat f.reg2.toNat f.imm.toNat

/-- R53, R55, R57, R73: the code of an instruction. -/
def encode (i : Instr) : Code :=
  match i with
  | .nop f => .word (packWord (opmap .nop) f)
  | .mov f => .word (packWord (opmap .mov) f)
  | .add f => .word (packWord (opmap .add) f)
  | .sub f => .word (packWord (opmap .sub) f)
  | .and f => .word (packWord (opmap .and) f)
  | .or f => .word (packWord (opmap .or) f)
  | .mul f => .word (packWord (opmap .mul) f)
  | .div f => .word (packWord (opmap .div) f)
  | .jmp f => .word (packWord (opmap .jmp) f)
  | .jz f => .word (packWord (opmap .jz) f)
  | .call f => .word (packWord (opmap .call) f)
  | .ret f => .word (packWord (opmap .ret) f)
  | .halt f => .word (packWord (opmap .halt) f)
  | .load f => .word (packWord (opmap .load) f)
  | .store f => .word (packWord (opmap .store) f)
  | .reserved15 f => .word (packWord reservedOpcode f)
  | .aluZero => .alu6 (aluCode .zero)
  | .aluOne => .alu6 (aluCode .one)
  | .aluMinus1 => .alu6 (aluCode .minus1)
  | .aluPassx => .alu6 (aluCode .passx)
  | .aluPassy => .alu6 (aluCode .passy)
  | .aluNotx => .alu6 (aluCode .notx)
  | .aluNoty => .alu6 (aluCode .noty)
  | .aluNegx => .alu6 (aluCode .negx)
  | .aluNegy => .alu6 (aluCode .negy)
  | .aluIncx => .alu6 (aluCode .incx)
  | .aluIncy => .alu6 (aluCode .incy)
  | .aluDecx => .alu6 (aluCode .decx)
  | .aluDecy => .alu6 (aluCode .decy)
  | .aluAdd => .alu6 (aluCode .add)
  | .aluSubxy => .alu6 (aluCode .subxy)
  | .aluSubyx => .alu6 (aluCode .subyx)
  | .aluAnd => .alu6 (aluCode .and)
  | .aluOr => .alu6 (aluCode .or)
  | .aluMul => .alu6 (aluCode .mul)
  | .aluDiv => .alu6 (aluCode .div)

/-- R59: the word an assembler line stands for, or none where the line is an assembly error. -/
def assemble (a : Asm) : Option Word :=
  if a.wf then
    match a with
    | .bare m => some (encodeFields (opmap m).toNat 0 0 0)
    | .regImm m r imm => some (encodeFields (opmap m).toNat r 0 imm)
    | .regReg m r q => some (encodeFields (opmap m).toNat r q 0)
    | .target m imm => some (encodeFields (opmap m).toNat 0 0 imm)
    | .literal v => some (BitVec.ofNat 16 v)
  else none

/-! ## The opcode table's words -/

/-- The code that a row's bits `w` stand for: a row of up to 8 bits is an ALU6 row (its 6 bits, the
bits above them 0), a row of 9 to 16 bits is a format F word. -/
def codeOfTableWord (nbits w : Nat) : Option Code :=
  if nbits ≤ 8 then
    if w < 64 then some (.alu6 (BitVec.ofNat 6 w)) else none
  else if nbits ≤ 16 then
    if w < 65536 then some (.word (BitVec.ofNat 16 w)) else none
  else none

/-- The instruction the decoder reads from a row's bits, as spec/opcode_table.json numbers them. -/
def decodeTableWord (nbits w : Nat) : Option Instr :=
  match codeOfTableWord nbits w with
  | some c => (decode c).toOption
  | none => none

end Sys2Proof
end

