-- ==== Sys2Proof/Machine/State.lean ====
section
/-!
DEFINITION. The state of the machine: every piece that 10_state.md gives it (R11 to R18), with the fields of the
model's own marked as such, and the state after reset (R22). Plain data throughout.
-/

namespace Sys2Proof.Machine

/-- R14: the flags register, four one-bit fields and no packing (93_implementation_defined.md U9). Also the
four status outputs of the ALU (R70). -/
structure Flags where
  zr : Bool
  ng : Bool
  ov : Bool
  cy : Bool
deriving DecidableEq, Repr

/-- R15, R180: why the engine stopped; `none` while it runs. -/
inductive StopReason where
  | none
  | halt
  | divideByZero
  | stackOverflow
  | stackUnderflow
  | unimplementedInstruction
  | fetchOutOfRange
deriving DecidableEq, Repr

/-- R103: the ALU's condition output. -/
inductive AluCond where
  | ok
  | divZero
  | unimplementedCode
deriving DecidableEq, Repr

/-- R70: the outputs of the ALU. -/
structure AluOutputs where
  out   : Word
  flags : Flags
  cond  : AluCond
deriving DecidableEq, Repr

/-- R70: the ALU's own interface, as the one who drives it directly sees it. THE MODEL'S OWN FIELDS: the ALU
holds no state (R19) and its inputs are not state (R20).
DESIGN CHOICE (log entry 4). -/
structure AluPorts where
  /-- the word on operand input `x` -/
  x     : Word
  /-- the word on operand input `y` -/
  y     : Word
  /-- a control code just presented to the ALU, to be answered by the next step -/
  drive : Option AluCode
  /-- the outputs the ALU gave for the last code presented -/
  out   : AluOutputs
deriving DecidableEq, Repr

/-- R17, R30: the memory, a list of (word address, word) pairs in canonical form: addresses strictly rising and
below 400, and no pair holding what an unlisted address reads as (`Memory.wf` in Machine/Ops.lean).
The unit is the Word, the smallest thing an address names (R34): log entry 3. -/
abbrev Memory := List (Nat × Word)

/-- The state of the machine. -/
structure State where
  /-- R11: `R[0]` to `R[7]` -/
  regs      : Vector Word 8
  /-- R12: the instruction pointer -/
  ip        : Word
  /-- R13: the stack pointer, the address of the next free stack slot -/
  sp        : Word
  /-- R14: the flags register -/
  flags     : Flags
  /-- R15: true in the source's state Running, false in Halted -/
  running   : Bool
  /-- R15: the reason for the stop -/
  reason    : StopReason
  /-- R16: the recursion-depth counter DEPTH -/
  depth     : Nat
  /-- R17: the memory -/
  mem       : Memory
  /-- R18: the output stream OUT, oldest byte first -/
  out       : List Byte
  /-- R70: the ALU's own interface (the model's own field, log entry 4) -/
  alu       : AluPorts
  /-- R16, R5: the parameter DEPTH_BITS, which no step changes (the model's own field, log entry 1) -/
  depthBits : Nat
deriving DecidableEq, Repr

/-- The faults of the model. The machine's own stops are no faults: they are next states with `running` false. -/
inductive Fault where
  /-- R33: a direct access (a push of CALL, a pop of RET) to a word that does not exist, address 400 or
  more. "A direct access is defined only for 0 <= a <= 399". Raised by CALL and RET only in states
  that no run reaches (SP of 400 or more, against the invariant of R13). Safe (log entry 7). -/
  | directAccessOutOfRange (addr : Word)
deriving DecidableEq, Repr

/-- The refusals of the model. -/
inductive Refusal where
  /-- The instruction has no meaning yet. Raised by no arm of `exec`: every row has its meaning. Safe. -/
  | notModelled (mnemonic : String)
deriving DecidableEq, Repr

/-- R22: the state after reset with no program loaded: everything zero, SP 399, running, no output. (The
reset with a program is `State.load` in Machine/Loader.lean.) The values of `alu` and `depthBits` are
the model's: DESIGN CHOICE, log entries 4 and 1, unsafe if a claim rests on them. -/
def State.reset : State where
  regs := Vector.replicate 8 0#16
  ip := 0#16
  sp := Config.spInit
  flags := { zr := false, ng := false, ov := false, cy := false }
  running := true
  reason := .none
  depth := 0
  mem := []
  out := []
  alu :=
    { x := 0#16, y := 0#16, drive := none,
      out := { out := 0#16, flags := { zr := true, ng := false, ov := false, cy := false }, cond := .ok } }
  depthBits := Config.depthBitsSuggested

end Sys2Proof.Machine
end

