-- ==== Sys2Proof/Machine/Ops.lean ====
section
/-!
DEFINITION. The named operations over registers, memory, output and engine status that the meanings share
(20_memory.md R31 to R33, 10_state.md R11, 60_exceptions.md R190).
-/

namespace Sys2Proof.Machine

/-! ## Memory -/

/-- R22: what a word that nothing has written reads as. -/
def Memory.unlisted : Word := 0#16

/-- The word at an address. -/
def Memory.get (m : Memory) (a : Nat) : Word :=
  match m with
  | [] => Memory.unlisted
  | (b, v) :: rest => if a = b then v else Memory.get rest a

/-- Put a word at an address, keeping the canonical form: in address order, and a word equal to what an
unlisted address reads as is taken out of the list. -/
def Memory.set (m : Memory) (a : Nat) (v : Word) : Memory :=
  match m with
  | [] => if v = Memory.unlisted then [] else [(a, v)]
  | (b, w) :: rest =>
    if a < b then (if v = Memory.unlisted then (b, w) :: rest else (a, v) :: (b, w) :: rest)
    else if a = b then (if v = Memory.unlisted then rest else (a, v) :: rest)
    else (b, w) :: Memory.set rest a v

/-- The canonical form from address `lo` on. -/
def Memory.wfFrom (lo : Nat) (m : Memory) : Bool :=
  match m with
  | [] => true
  | (b, v) :: rest =>
    decide (lo ≤ b) && decide (b < Config.memWords) && decide (v ≠ Memory.unlisted)
      && Memory.wfFrom (b + 1) rest

/-- The canonical form: addresses strictly rising, each below 400 (R17), no pair that says what an
unlisted address reads as anyway. -/
def Memory.wf (m : Memory) : Bool := Memory.wfFrom 0 m

/-- R31: `MemRead(addr, 1)`, total on every address: 0 beyond the array. -/
def State.memRead (s : State) (addr : Word) : Word :=
  if addr.toNat < Config.memWords then s.mem.get addr.toNat else 0#16

/-- R32, first line: the byte a write at this address emits, if any. -/
def State.emit (s : State) (addr value : Word) : State :=
  if addr.toNat = Config.portAddr then { s with out := s.out ++ [value.extractLsb' 0 8] } else s

/-- R32: `MemWrite(addr, 1, value)`, total on every address: emit at the port, store below 400, drop beyond. -/
def State.memWrite (s : State) (addr value : Word) : State :=
  let s := s.emit addr value
  if addr.toNat < Config.memWords then { s with mem := s.mem.set addr.toNat value } else s

/-- R33: a direct read of `mem[a]`, defined only for 0 to 399, with no other effect. -/
def State.directRead (s : State) (a : Word) : Except Fault Word :=
  if a.toNat < Config.memWords then .ok (s.mem.get a.toNat) else .error (.directAccessOutOfRange a)

/-- R33: a direct write of `mem[a]`, defined only for 0 to 399, with no port effect. -/
def State.directWrite (s : State) (a value : Word) : Except Fault State :=
  if a.toNat < Config.memWords then .ok { s with mem := s.mem.set a.toNat value }
  else .error (.directAccessOutOfRange a)

/-! ## Registers -/

/-- R11: read `R[i]`. No register is hard-wired and no number is invalid. -/
def State.reg (s : State) (i : RegNum) : Word := s.regs[i.toNat]'i.isLt

/-- R11: write `R[i]`. -/
def State.setReg (s : State) (i : RegNum) (v : Word) : State :=
  { s with regs := s.regs.set i.toNat v i.isLt }

/-- R14: write the flags register. -/
def State.setFlags (s : State) (fl : Flags) : State := { s with flags := fl }

/-- R12: write the instruction pointer. -/
def State.setIp (s : State) (t : Word) : State := { s with ip := t }

/-! ## The stack (44_control.md R162, R163) -/

/-- R162: store the word in the next free slot, then decrement SP. -/
def State.push (s : State) (v : Word) : Except Fault State :=
  match s.directWrite s.sp v with
  | .ok t => .ok { t with sp := s.sp - 1 }
  | .error e => .error e

/-- R163: increment SP, then read the word there. The word is not erased. -/
def State.pop (s : State) : Except Fault (Word × State) :=
  match s.directRead (s.sp + 1) with
  | .ok v => .ok (v, { s with sp := s.sp + 1 })
  | .error e => .error e

/-- R16: count one CALL, modulo `2^DEPTH_BITS`. -/
def State.countCall (s : State) : State :=
  { s with depth := (s.depth + 1) % 2 ^ s.depthBits }

/-! ## Stopping (60_exceptions.md R190), this machine's taking of an exception

There is no return from a stop (R191), so no operation stands beside it. -/

/-- R7, R190: `raise <Reason>`: `running` becomes 0 and `reason` says why; nothing else changes. IP was
advanced at fetch, before the instruction raised. -/
def State.raise (s : State) (r : StopReason) : State := { s with running := false, reason := r }

/-- R199, R5 `HALT_CODE`: the code of a reason on the 3-bit status output. -/
def haltCode (r : StopReason) : BitVec 3 :=
  match r with
  | .none => 0
  | .halt => 1
  | .divideByZero => 2
  | .stackOverflow => 3
  | .stackUnderflow => 4
  | .unimplementedInstruction => 5
  | .fetchOutOfRange => 6

/-- R199: the logical status output of the engine, `running` and the code of `reason`. -/
def State.status (s : State) : Bool × BitVec 3 := (s.running, haltCode s.reason)

/-! ## The ALU's own interface -/

/-- R70: the ALU's outputs, as its direct user sees them. Nothing of the engine changes (R77, R187). -/
def State.aluObserve (s : State) (o : AluOutputs) : State := { s with alu := { s.alu with out := o } }

end Sys2Proof.Machine
end

