-- ==== Sys2Proof/Machine/Operands.lean ====
section
/-!
DEFINITION. The operand forms of the instruction set (30_encoding.md R54): the zero-extended immediate, a register
named by `reg1` or `reg2`, and the address held in `R[reg2]`. There are no others.
-/

namespace Sys2Proof.Machine

/-- R54: the immediate operand, zero extended, 0 to 63; also the target of JMP, JZ and CALL (R165). -/
def immWord (f : Fields) : Word := f.imm.setWidth 16

/-- R54: the register operand named by `reg1`. -/
def State.operand1 (s : State) (f : Fields) : Word := s.reg f.reg1

/-- R54: the register operand named by `reg2`. -/
def State.operand2 (s : State) (f : Fields) : Word := s.reg f.reg2

/-- R175, R176: the address of LOAD and STORE, the whole of `R[reg2]`, no offset. -/
def State.address (s : State) (f : Fields) : Word := s.reg f.reg2

end Sys2Proof.Machine
end

