-- ==== Sys2Proof/Machine/Flags.lean ====
section
/-!
DEFINITION. Every flag computation of the spec: the zero and negative flags (R76), the overflow formulas of the
ALU (R93 to R95), and the flags the engine computes itself for SUB (R146) and for AND, OR and DIV
(R147, R148, R150).
-/

namespace Sys2Proof.Machine

/-- R76: 1 iff the result is 0. -/
def zeroFlag (out : Word) : Bool := out == 0#16

/-- R76: bit 15 of the result. -/
def negFlag (out : Word) : Bool := out.msb

/-- R93: signed overflow of `x + y` by sign bits: the operands agree and the result differs. -/
def addOverflow (x y out : Word) : Bool := (x.msb == y.msb) && (out.msb != x.msb)

/-- R94: signed overflow of `x - y` by sign bits: the operands differ and the result differs from `x`. -/
def subOverflow (x y out : Word) : Bool := (x.msb != y.msb) && (out.msb != x.msb)

/-- R94, R146: a borrow was needed, by comparing the operands. -/
def borrowFlag (x y : Word) : Bool := decide (x.toNat < y.toNat)

/-- R146: SUB's sign-mismatch heuristic, which takes `-imm` as a proxy operand. -/
def subHeuristic (before negimm result : Word) : Bool :=
  (decide (0 < before.toInt) && decide (0 < negimm.toInt) && decide (result.toInt < 0))
    || (decide (before.toInt < 0) && decide (negimm.toInt < 0) && decide (0 < result.toInt))

/-- R146: the four flags of SUB. -/
def subFlags (before imm result : Word) : Flags where
  zr := zeroFlag result
  ng := negFlag result
  ov := subHeuristic before (0#16 - imm) result
  cy := borrowFlag before imm

/-- R147, R148, R150: "zr,ng only"; `ov` and `cy` keep their values. -/
def logicFlags (old : Flags) (result : Word) : Flags :=
  { old with zr := zeroFlag result, ng := negFlag result }

end Sys2Proof.Machine
end

