-- ==== Sys2Proof/Machine/Alu.lean ====
section
/-!
DEFINITION. The ALU (40_alu.md): the control code, the ripple-carry adder, the twenty functions, the dispatch by exact
code and what is reported for an undefined one; and the generic pipeline of R101, which describes the
result of eighteen of the functions. A pure function of its inputs (R77).
-/

namespace Sys2Proof.Machine

/-! ## The control code and the preprocessing (R71, R72, R101) -/

/-- R71: the code formed from the six control inputs, `zx` most significant. -/
def aluControl (zx nx zy ny f no : Bool) : AluCode :=
  BitVec.ofBool zx ++ BitVec.ofBool nx ++ BitVec.ofBool zy ++ BitVec.ofBool ny
    ++ BitVec.ofBool f ++ BitVec.ofBool no

/-- R72: one operand after preprocessing: zeroed, then complemented. -/
def aluPreprocess (zero negate : Bool) (v : Word) : Word :=
  let v1 := if zero then 0#16 else v
  if negate then ~~~v1 else v1

/-- R101: what the generic pipeline computes from the preprocessed operands. No output of the ALU is defined
by it (R72); it is offered as a cross-check of the code table. -/
def aluPipeline (x y : Word) (d : AluCode) : Word :=
  let x2 := aluPreprocess (d.getLsbD 5) (d.getLsbD 4) x
  let y2 := aluPreprocess (d.getLsbD 3) (d.getLsbD 2) y
  let t := if d.getLsbD 1 then x2 + y2 else x2 &&& y2
  if d.getLsbD 0 then ~~~t else t

/-! ## The adder (R75) -/

/-- R75: the sum bit of one bit position. -/
def fullAdderSum (a b c : Bool) : Bool := (a ^^ b) ^^ c

/-- R75: the carry out of one bit position. -/
def fullAdderCarry (a b c : Bool) : Bool := (a && b) || (c && (a ^^ b))

/-- R75: the carry into bit position `i`; 0 at bit 0. -/
def rippleCarry (a b : Word) (i : Nat) : Bool :=
  match i with
  | 0 => false
  | k + 1 => fullAdderCarry (a.getLsbD k) (b.getLsbD k) (rippleCarry a b k)

/-- R75: the low `n` sum bits of the cascade. -/
def rippleSum (a b : Word) (n : Nat) : Word :=
  match n with
  | 0 => 0#16
  | k + 1 =>
    rippleSum a b k
      ||| ((BitVec.ofBool (fullAdderSum (a.getLsbD k) (b.getLsbD k) (rippleCarry a b k))).setWidth 16 <<< k)

/-- R75: `Add16`, the sum and the carry out of bit 15. -/
def add16 (a b : Word) : Word × Bool := (rippleSum a b 16, rippleCarry a b 16)

/-! ## The twenty functions (R80 to R99) -/

/-- R76: the outputs for a defined code: `zr` and `ng` always from the result. -/
def aluResult (out : Word) (cy ov : Bool) : AluOutputs where
  out := out
  flags := { zr := zeroFlag out, ng := negFlag out, ov := ov, cy := cy }
  cond := .ok

/-- R80: constant 0. -/
def aluFnZero (_x _y : Word) : AluOutputs := aluResult 0x0000#16 false false

/-- R81: constant 1. -/
def aluFnOne (_x _y : Word) : AluOutputs := aluResult 0x0001#16 false false

/-- R82: constant -1. -/
def aluFnMinus1 (_x _y : Word) : AluOutputs := aluResult 0xFFFF#16 false false

/-- R83: pass x. -/
def aluFnPassx (x _y : Word) : AluOutputs := aluResult x false false

/-- R84: pass y. -/
def aluFnPassy (_x y : Word) : AluOutputs := aluResult y false false

/-- R85: complement x. -/
def aluFnNotx (x _y : Word) : AluOutputs := aluResult (~~~x) false false

/-- R86: complement y. -/
def aluFnNoty (_x y : Word) : AluOutputs := aluResult (~~~y) false false

/-- R87: negate x; `cy` and `ov` stay 0 (R78). -/
def aluFnNegx (x _y : Word) : AluOutputs := aluResult (0#16 - x) false false

/-- R88: negate y. -/
def aluFnNegy (_x y : Word) : AluOutputs := aluResult (0#16 - y) false false

/-- R89: increment x through the adder; `cy` its carry out, `ov` 0. -/
def aluFnIncx (x _y : Word) : AluOutputs := aluResult (add16 x 0x0001#16).1 (add16 x 0x0001#16).2 false

/-- R90: increment y. -/
def aluFnIncy (_x y : Word) : AluOutputs := aluResult (add16 y 0x0001#16).1 (add16 y 0x0001#16).2 false

/-- R91: decrement x; `cy` stays 0 although a borrow may happen (R78). -/
def aluFnDecx (x _y : Word) : AluOutputs := aluResult (x - 1#16) false false

/-- R92: decrement y. -/
def aluFnDecy (_x y : Word) : AluOutputs := aluResult (y - 1#16) false false

/-- R93: add, the carry out of bit 15 and signed overflow. -/
def aluFnAdd (x y : Word) : AluOutputs :=
  aluResult (add16 x y).1 (add16 x y).2 (addOverflow x y (add16 x y).1)

/-- R94: subtract x - y, the borrow and signed overflow. -/
def aluFnSubxy (x y : Word) : AluOutputs :=
  aluResult (x - y) (borrowFlag x y) (subOverflow x y (x - y))

/-- R95: subtract y - x. -/
def aluFnSubyx (x y : Word) : AluOutputs :=
  aluResult (y - x) (borrowFlag y x) (subOverflow y x (y - x))

/-- R96: bitwise and. -/
def aluFnAnd (x y : Word) : AluOutputs := aluResult (x &&& y) false false

/-- R97: bitwise or. -/
def aluFnOr (x y : Word) : AluOutputs := aluResult (x ||| y) false false

/-- R98: the low half of the unsigned product; `ov` iff the exact product exceeds 65535. -/
def aluFnMul (x y : Word) : AluOutputs :=
  aluResult (BitVec.ofNat 16 (x.toNat * y.toNat)) false (decide (65535 < x.toNat * y.toNat))

/-- R99: the unsigned quotient; for a zero divisor 0 with `ov` 1 and the condition `div_zero`. -/
def aluFnDiv (x y : Word) : AluOutputs :=
  if y.toNat = 0 then { aluResult 0#16 false true with cond := .divZero }
  else aluResult (BitVec.ofNat 16 (x.toNat / y.toNat)) false false

/-- R73: the function of each name. -/
def aluApply (g : AluFn) (x y : Word) : AluOutputs :=
  match g with
  | .zero => aluFnZero x y
  | .one => aluFnOne x y
  | .minus1 => aluFnMinus1 x y
  | .passx => aluFnPassx x y
  | .passy => aluFnPassy x y
  | .notx => aluFnNotx x y
  | .noty => aluFnNoty x y
  | .negx => aluFnNegx x y
  | .negy => aluFnNegy x y
  | .incx => aluFnIncx x y
  | .incy => aluFnIncy x y
  | .decx => aluFnDecx x y
  | .decy => aluFnDecy x y
  | .add => aluFnAdd x y
  | .subxy => aluFnSubxy x y
  | .subyx => aluFnSubyx x y
  | .and => aluFnAnd x y
  | .or => aluFnOr x y
  | .mul => aluFnMul x y
  | .div => aluFnDiv x y

/-! ## The whole ALU (R70) -/

/-- R74, R103: what is reported for an undefined code: the condition, and outputs that have no stated value
(free values, log entry 5). -/
def aluUndefined (x y : Word) (d : AluCode) : AluOutputs where
  out := Config.aluUndefinedOut x y d
  flags :=
    { zr := Config.aluUndefinedZr x y d, ng := Config.aluUndefinedNg x y d,
      ov := Config.aluUndefinedOv x y d, cy := Config.aluUndefinedCy x y d }
  cond := .unimplementedCode

/-- R70, R73, R74: `ALU(x, y, d)`, dispatch by the exact value of the control code. -/
def aluCompute (x y : Word) (d : AluCode) : AluOutputs :=
  match aluFnOf d with
  | some g => aluApply g x y
  | none => aluUndefined x y d

end Sys2Proof.Machine
end

