-- ==== Sys2Proof/Machine/NopMov.lean ====
section
/-!
DEFINITION. The meanings of NOP and MOV (42_nop_mov.md). As every meaning, each is the Execute part of its
instruction: IP already holds the address of the next one (R8, R122).
-/

namespace Sys2Proof.Machine

/-- R140: NOP changes nothing beyond the increment of IP done at fetch. -/
def execNop (_f : Fields) (s : State) : Host.Outcome State Fault Refusal := .next s

/-- R141: MOV, `R[reg1] <- zext_16(imm)`, no flags. -/
def execMov (f : Fields) (s : State) : Host.Outcome State Fault Refusal :=
  .next (s.setReg f.reg1 (immWord f))

end Sys2Proof.Machine
end

