-- ==== Sys2Proof/Machine/ArithLogic.lean ====
section
/-!
DEFINITION. The meanings of ADD, SUB, AND, OR, MUL and DIV (43_arith_logic.md). ADD and MUL go through the ALU and take
all four flags from it (R104, R128); SUB has flag logic of its own; AND, OR and DIV touch `zr` and `ng` only.
-/

namespace Sys2Proof.Machine

/-- R104, R128: drive the ALU with a function's code, copy its result to a register and all four
status outputs to FLAGS. The condition output is ignored. -/
def State.throughAlu (s : State) (g : AluFn) (dst : RegNum) (x y : Word) : State :=
  let o := aluCompute x y (aluCode g)
  (s.setReg dst o.out).setFlags o.flags

/-- R147, R148, R150: write a result and the flags `zr` and `ng` of it. -/
def State.bypassAlu (s : State) (dst : RegNum) (result : Word) : State :=
  (s.setReg dst result).setFlags (logicFlags s.flags result)

/-- R145: ADD, through the ALU. -/
def execAdd (f : Fields) (s : State) : Host.Outcome State Fault Refusal :=
  .next (s.throughAlu .add f.reg1 (s.operand1 f) (immWord f))

/-- R146: SUB, bypassing the ALU. -/
def execSub (f : Fields) (s : State) : Host.Outcome State Fault Refusal :=
  let before := s.operand1 f
  let result := before - immWord f
  .next ((s.setReg f.reg1 result).setFlags (subFlags before (immWord f) result))

/-- R147: AND. -/
def execAnd (f : Fields) (s : State) : Host.Outcome State Fault Refusal :=
  .next (s.bypassAlu f.reg1 (s.operand1 f &&& s.operand2 f))

/-- R148: OR. -/
def execOr (f : Fields) (s : State) : Host.Outcome State Fault Refusal :=
  .next (s.bypassAlu f.reg1 (s.operand1 f ||| s.operand2 f))

/-- R149: MUL, through the ALU. -/
def execMul (f : Fields) (s : State) : Host.Outcome State Fault Refusal :=
  .next (s.throughAlu .mul f.reg1 (s.operand1 f) (s.operand2 f))

/-- R150, R182: DIV, bypassing the ALU; a zero divisor stops the engine and changes nothing else. -/
def execDiv (f : Fields) (s : State) : Host.Outcome State Fault Refusal :=
  if (s.operand2 f).toNat = 0 then .next (s.raise .divideByZero)
  else .next (s.bypassAlu f.reg1 (BitVec.ofNat 16 ((s.operand1 f).toNat / (s.operand2 f).toNat)))

end Sys2Proof.Machine
end

