-- ==== Sys2Proof/Machine/Control.lean ====
section
/-!
DEFINITION. The meanings of JMP, JZ, CALL, RET and HALT (44_control.md), and of the reserved opcode (R57, R124, R185).
-/

namespace Sys2Proof.Machine

/-- R160: JMP. -/
def execJmp (f : Fields) (s : State) : Host.Outcome State Fault Refusal :=
  .next (s.setIp (immWord f))

/-- R161: JZ; not taken, IP keeps the fall-through value. -/
def execJz (f : Fields) (s : State) : Host.Outcome State Fault Refusal :=
  if s.flags.zr then .next (s.setIp (immWord f)) else .next s

/-- R162, R183: CALL. At SP 0 it stops and does nothing else; otherwise it pushes IP, jumps and counts. -/
def execCall (f : Fields) (s : State) : Host.Outcome State Fault Refusal :=
  if s.sp.toNat = 0 then .next (s.raise .stackOverflow)
  else
    match s.push s.ip with
    | .ok t => .next ((t.setIp (immWord f)).countCall)
    | .error e => .fault e

/-- R163, R184: RET. At SP 399 it stops and does nothing else; otherwise it pops IP. -/
def execRet (_f : Fields) (s : State) : Host.Outcome State Fault Refusal :=
  if s.sp = Config.spInit then .next (s.raise .stackUnderflow)
  else
    match s.pop with
    | .ok (v, t) => .next (t.setIp v)
    | .error e => .fault e

/-- R164, R181: HALT. -/
def execHalt (_f : Fields) (s : State) : Host.Outcome State Fault Refusal :=
  .next (s.raise .halt)

/-- R57, R124, R185: the reserved opcode; "the other fields of the word are not examined". -/
def execReserved15 (_f : Fields) (s : State) : Host.Outcome State Fault Refusal :=
  .next (s.raise .unimplementedInstruction)

end Sys2Proof.Machine
end

