-- ==== Sys2Proof/Machine/LoadStore.lean ====
section
/-!
DEFINITION. The meanings of LOAD and STORE (45_load_store.md), the two instructions that go through the memory's read
and write contract. No address faults (R44).
-/

namespace Sys2Proof.Machine

/-- R175: LOAD; 0 from an address of 400 or more, no flags, no side effect. -/
def execLoad (f : Fields) (s : State) : Host.Outcome State Fault Refusal :=
  .next (s.setReg f.reg1 (s.memRead (s.address f)))

/-- R176: STORE; a byte to OUT at the port, nothing at an address of 400 or more. -/
def execStore (f : Fields) (s : State) : Host.Outcome State Fault Refusal :=
  .next (s.memWrite (s.address f) (s.operand1 f))

end Sys2Proof.Machine
end

