-- ==== Sys2Proof/Machine/AluUnit.lean ====
section
/-!
DEFINITION. The meanings of the ALU6 rows: the ALU driven at its own interface with one of its twenty codes (R70, R73,
R80 to R99). Each answers with the function of the words that stand on the operand inputs, and touches
nothing of the engine (R77, R187).
-/

namespace Sys2Proof.Machine

/-- R70: the ALU's user sees the outputs of one function of the present operand inputs. -/
def State.aluAnswer (s : State) (g : Word → Word → AluOutputs) : State :=
  s.aluObserve (g s.alu.x s.alu.y)

/-- R80: ALU.ZERO. -/
def execAluZero (s : State) : Host.Outcome State Fault Refusal := .next (s.aluAnswer aluFnZero)

/-- R81: ALU.ONE. -/
def execAluOne (s : State) : Host.Outcome State Fault Refusal := .next (s.aluAnswer aluFnOne)

/-- R82: ALU.MINUS1. -/
def execAluMinus1 (s : State) : Host.Outcome State Fault Refusal := .next (s.aluAnswer aluFnMinus1)

/-- R83: ALU.PASSX. -/
def execAluPassx (s : State) : Host.Outcome State Fault Refusal := .next (s.aluAnswer aluFnPassx)

/-- R84: ALU.PASSY. -/
def execAluPassy (s : State) : Host.Outcome State Fault Refusal := .next (s.aluAnswer aluFnPassy)

/-- R85: ALU.NOTX. -/
def execAluNotx (s : State) : Host.Outcome State Fault Refusal := .next (s.aluAnswer aluFnNotx)

/-- R86: ALU.NOTY. -/
def execAluNoty (s : State) : Host.Outcome State Fault Refusal := .next (s.aluAnswer aluFnNoty)

/-- R87: ALU.NEGX. -/
def execAluNegx (s : State) : Host.Outcome State Fault Refusal := .next (s.aluAnswer aluFnNegx)

/-- R88: ALU.NEGY. -/
def execAluNegy (s : State) : Host.Outcome State Fault Refusal := .next (s.aluAnswer aluFnNegy)

/-- R89: ALU.INCX. -/
def execAluIncx (s : State) : Host.Outcome State Fault Refusal := .next (s.aluAnswer aluFnIncx)

/-- R90: ALU.INCY. -/
def execAluIncy (s : State) : Host.Outcome State Fault Refusal := .next (s.aluAnswer aluFnIncy)

/-- R91: ALU.DECX. -/
def execAluDecx (s : State) : Host.Outcome State Fault Refusal := .next (s.aluAnswer aluFnDecx)

/-- R92: ALU.DECY. -/
def execAluDecy (s : State) : Host.Outcome State Fault Refusal := .next (s.aluAnswer aluFnDecy)

/-- R93: ALU.ADD. -/
def execAluAdd (s : State) : Host.Outcome State Fault Refusal := .next (s.aluAnswer aluFnAdd)

/-- R94: ALU.SUBXY. -/
def execAluSubxy (s : State) : Host.Outcome State Fault Refusal := .next (s.aluAnswer aluFnSubxy)

/-- R95: ALU.SUBYX. -/
def execAluSubyx (s : State) : Host.Outcome State Fault Refusal := .next (s.aluAnswer aluFnSubyx)

/-- R96: ALU.AND. -/
def execAluAnd (s : State) : Host.Outcome State Fault Refusal := .next (s.aluAnswer aluFnAnd)

/-- R97: ALU.OR. -/
def execAluOr (s : State) : Host.Outcome State Fault Refusal := .next (s.aluAnswer aluFnOr)

/-- R98: ALU.MUL. -/
def execAluMul (s : State) : Host.Outcome State Fault Refusal := .next (s.aluAnswer aluFnMul)

/-- R99: ALU.DIV. -/
def execAluDiv (s : State) : Host.Outcome State Fault Refusal := .next (s.aluAnswer aluFnDiv)

/-- R74, R187: an undefined control code is reported on `cond`; it is no stop and has no lasting effect. -/
def State.aluReportUndefined (s : State) (d : AluCode) : State :=
  s.aluObserve (aluUndefined s.alu.x s.alu.y d)

end Sys2Proof.Machine
end

