-- ==== Sys2Proof/Machine/Dispatch.lean ====
section
/-!
DEFINITION. The dispatch (41_engine.md R124): one arm per constructor, "no two opcodes ever share a handler".
-/

namespace Sys2Proof.Machine

def exec (i : Instr) (s : State) : Host.Outcome State Fault Refusal :=
  match i with
  | .nop f => Sys2Proof.Machine.execNop f s
  | .mov f => Sys2Proof.Machine.execMov f s
  | .add f => Sys2Proof.Machine.execAdd f s
  | .sub f => Sys2Proof.Machine.execSub f s
  | .and f => Sys2Proof.Machine.execAnd f s
  | .or f => Sys2Proof.Machine.execOr f s
  | .mul f => Sys2Proof.Machine.execMul f s
  | .div f => Sys2Proof.Machine.execDiv f s
  | .jmp f => Sys2Proof.Machine.execJmp f s
  | .jz f => Sys2Proof.Machine.execJz f s
  | .call f => Sys2Proof.Machine.execCall f s
  | .ret f => Sys2Proof.Machine.execRet f s
  | .halt f => Sys2Proof.Machine.execHalt f s
  | .load f => Sys2Proof.Machine.execLoad f s
  | .store f => Sys2Proof.Machine.execStore f s
  | .reserved15 f => Sys2Proof.Machine.execReserved15 f s
  | .aluZero => Sys2Proof.Machine.execAluZero s
  | .aluOne => Sys2Proof.Machine.execAluOne s
  | .aluMinus1 => Sys2Proof.Machine.execAluMinus1 s
  | .aluPassx => Sys2Proof.Machine.execAluPassx s
  | .aluPassy => Sys2Proof.Machine.execAluPassy s
  | .aluNotx => Sys2Proof.Machine.execAluNotx s
  | .aluNoty => Sys2Proof.Machine.execAluNoty s
  | .aluNegx => Sys2Proof.Machine.execAluNegx s
  | .aluNegy => Sys2Proof.Machine.execAluNegy s
  | .aluIncx => Sys2Proof.Machine.execAluIncx s
  | .aluIncy => Sys2Proof.Machine.execAluIncy s
  | .aluDecx => Sys2Proof.Machine.execAluDecx s
  | .aluDecy => Sys2Proof.Machine.execAluDecy s
  | .aluAdd => Sys2Proof.Machine.execAluAdd s
  | .aluSubxy => Sys2Proof.Machine.execAluSubxy s
  | .aluSubyx => Sys2Proof.Machine.execAluSubyx s
  | .aluAnd => Sys2Proof.Machine.execAluAnd s
  | .aluOr => Sys2Proof.Machine.execAluOr s
  | .aluMul => Sys2Proof.Machine.execAluMul s
  | .aluDiv => Sys2Proof.Machine.execAluDiv s

end Sys2Proof.Machine
end

