-- ==== Sys2Proof/Machine/Engine.lean ====
section
/-!
DEFINITION. What a step does before an instruction runs (41_engine.md R122, R123, R125, R127): the fetch, the advance of
IP, the decoding, the stop at a fetch out of range, the absorbing Halted state; and the answer to a code
presented at the ALU's own interface (40_alu.md R70).
-/

namespace Sys2Proof.Machine

/-- What the front of a step leads to. -/
inductive FrontEnd where
  /-- nothing happens: the engine is halted (R127) -/
  | idle
  /-- the step is over in this state, no instruction is dispatched -/
  | done (s : State)
  /-- this instruction runs from this state -/
  | issue (i : Instr) (s : State)
deriving DecidableEq, Repr

/-- R122: the word at IP, by direct access; none where the fetch is out of range. -/
def State.fetchWord (s : State) : Option Word := (s.directRead s.ip).toOption

/-- R122: "fetch always advances IP before execute". -/
def State.advance (s : State) : State := s.setIp (s.ip + 1)

/-- R122 to R125, R127: the front of `exec1`. -/
def engineFront (s : State) : FrontEnd :=
  if s.running then
    match s.fetchWord with
    | some w => .issue (decodeWord w) s.advance
    | none => .done (s.raise .fetchOutOfRange)
  else .idle

/-- The ALU's user takes the presented code back. -/
def State.aluRelease (s : State) : State := { s with alu := { s.alu with drive := none } }

/-- R70, R73, R74: the front of a step that answers a code presented at the ALU's own interface. -/
def aluFront (d : AluCode) (s : State) : FrontEnd :=
  match decode (.alu6 d) with
  | .ok i => .issue i s.aluRelease
  | .error (.unimplementedAluCode d) => .done (s.aluRelease.aluReportUndefined d)

/-- The front of a step. A code presented to the ALU is answered first, in a step of its own that leaves the
engine alone; no instruction presents one. DESIGN CHOICE (log entry 4). -/
def frontEnd (s : State) : FrontEnd :=
  match s.alu.drive with
  | some d => aluFront d s
  | none => engineFront s

/-- Present operands and a control code at the ALU's own interface (R70). -/
def State.aluPresent (s : State) (x y : Word) (d : AluCode) : State :=
  { s with alu := { s.alu with x := x, y := y, drive := some d } }

/-- Place a word where the engine fetches next, and leave the engine able to fetch it: running, nothing
presented to the ALU, IP inside memory. From reset only the memory changes (log entry 9). -/
def State.placeWord (s : State) (w : Word) : State :=
  let s := s.aluRelease
  let s := if s.running then s else { s with running := true, reason := .none }
  let s := if s.ip.toNat < Config.memWords then s else s.setIp 0#16
  { s with mem := s.mem.set s.ip.toNat w }

end Sys2Proof.Machine
end

