-- ==== Sys2Proof/Machine/Step.lean ====
section
/-!
DEFINITION. One step: `exec1` (41_engine.md R125), or the answer to a code presented at the ALU's own interface.
-/

namespace Sys2Proof.Machine

/-- One step of the machine. -/
def step (s : State) : Host.Outcome State Fault Refusal :=
  match frontEnd s with
  | .idle => .next s
  | .done t => .next t
  | .issue i t => exec i t

/-- The state in which the very next step runs the instruction that a table row's bits stand for: a word is
placed where the engine fetches, a control code is presented to the ALU. -/
def State.withFetchWord (s : State) (nbits w : Nat) : State :=
  if nbits ≤ 8 then s.aluPresent s.alu.x s.alu.y (BitVec.ofNat 6 w)
  else s.placeWord (BitVec.ofNat 16 w)

end Sys2Proof.Machine
end

