-- ==== Sys2Proof/Machine/Loader.lean ====
section
/-!
DEFINITION. Reset with a program: the loader's contract (70_reset_and_hazards.md R210, R211).
-/

namespace Sys2Proof.Machine

/-- R211: plain stores of the words from an address on; no port effect. -/
def Memory.fill (m : Memory) (a : Nat) (ws : List Word) : Memory :=
  match ws with
  | [] => m
  | w :: rest => Memory.fill (m.set a w) (a + 1) rest

/-- R210, R211: the state after reset with a program; a program of more than 400 words is refused and "no
machine state results". -/
def State.load (program : List Word) : Option State :=
  if program.length ≤ Config.memWords then
    some { State.reset with mem := Memory.fill State.reset.mem 0 program }
  else none

end Sys2Proof.Machine
end

