-- ==== Sys2Proof/Machine/Run.lean ====
section
/-!
DEFINITION. The outer step and the run loop (41_engine.md R126, R129), the derived notions that group `exec1`. Each takes
fuel, a bound on the number of `exec1`, because neither need terminate (R126, R130): no answer within
the bound says nothing. DESIGN CHOICE (log entry 11); safe.
-/

namespace Sys2Proof.Machine

/-- The mnemonics after which an outer step goes on (R126). -/
def isCallOrRet (i : Instr) : Bool :=
  match i with
  | .call _ | .ret _ => true
  | _ => false

/-- R126: the next step runs a CALL or a RET. -/
def State.issuesCallOrRet (s : State) : Bool :=
  match frontEnd s with
  | .issue i _ => isCallOrRet i
  | _ => false

/-- R126: repeat `exec1` until the engine is halted or the instruction just executed was neither CALL nor RET. -/
def outerStep (fuel : Nat) (s : State) : Option State :=
  match fuel with
  | 0 => none
  | k + 1 =>
    match step s with
    | .next t => if t.running && s.issuesCallOrRet then outerStep k t else some t
    | _ => none

/-- R129: step while running. -/
def run (fuel : Nat) (s : State) : Option State :=
  if s.running then
    match fuel with
    | 0 => none
    | k + 1 =>
      match step s with
      | .next t => run k t
      | _ => none
  else some s

end Sys2Proof.Machine
end

