-- ==== Sys2Proof/Safety.lean ====
section
/-!
DEFINITION. What claims speak of: the invariant of every reachable state (41_engine.md R131, 10_state.md R13, R15),
how a run may end (R130, R180), and which part of the state is the engine's.
-/

namespace Sys2Proof.Machine

/-- R131, R13, R15: SP is 0 to 399, `running` iff there is no reason, the memory is 400 words (its list is in
canonical form), and DEPTH fits its width. R131's other items are carried by the types. -/
abbrev State.Inv (s : State) : Prop :=
  s.sp.toNat ≤ 399 ∧ (s.running = true ↔ s.reason = StopReason.none) ∧ s.mem.wf = true
    ∧ s.depth < 2 ^ s.depthBits

/-- R127, R130: the run is over. -/
abbrev State.Halted (s : State) : Prop := s.running = false

/-- R130, R181: the normal end. -/
abbrev State.EndedNormally (s : State) : Prop := s.running = false ∧ s.reason = StopReason.halt

/-- R121, R122: the next step fetches the word `w`: the engine runs, IP is in memory and holds `w` there, and no
code is presented at the ALU's own interface. -/
abbrev State.Fetches (s : State) (w : Word) : Prop :=
  s.running = true ∧ s.alu.drive = none ∧ s.ip.toNat < 400 ∧ s.mem.get s.ip.toNat = w

/-- R14, R16, R18: the state with everything forgotten that no rule reads: the flags `ng`, `ov` and `cy`, DEPTH and
its width, OUT, and the outputs last seen at the ALU's own interface. -/
def State.unread (s : State) : State :=
  { s with
    flags := { s.flags with ng := false, ov := false, cy := false }
    depth := 0
    depthBits := 0
    out := []
    alu := { s.alu with out := State.reset.alu.out } }

end Sys2Proof.Machine
end

