-- ==== Sys2Proof/Certificates/Slice0/Obligations.lean ====
section
/-!
DEFINITION. The statements for the provers. Each docstring names the rules of spec/ that its statement formalises, or says
that the statement is the model's own and names the log entry.

Conventions: `n#4 ++ a ++ b ++ i` is the word `[opcode:4][reg1:3][reg2:3][imm:6]` (R51); a record
`{ s with … }` on the right of an equation is a frame as well: every field it does not name is unchanged.
-/

open Sys2Proof Sys2Proof.Machine

/-! ## Encoding -/

/-- R52: the four fields of every word are at their fixed positions, and decoding cannot fail. -/
def Obligations.DecoderExtractsFixedBitFields : Prop :=
  (∀ w : Word,
    (decodeFields w).1.toNat = (w.toNat >>> 12) &&& 0xF ∧
    (decodeFields w).2.reg1.toNat = (w.toNat >>> 9) &&& 0x7 ∧
    (decodeFields w).2.reg2.toNat = (w.toNat >>> 6) &&& 0x7 ∧
    (decodeFields w).2.imm.toNat = w.toNat &&& 0x3F) ∧
  (∀ w : Word, ∃ i : Instr, decode (.word w) = .ok i)

/-- R53: the encoder's formula, the round-trip law on all arguments (masked to their widths), and the converse, which is the
spec's own inference ("Converse `[derived: the four fields tile the word, rule R51]`"). -/
def Obligations.EncoderMasksAndDecoderInverts : Prop :=
  (∀ op r1 r2 imm : Nat,
    (encodeFields op r1 r2 imm).toNat =
      ((op &&& 0xF) <<< 12) ||| ((r1 &&& 0x7) <<< 9) ||| ((r2 &&& 0x7) <<< 6) ||| (imm &&& 0x3F)) ∧
  (∀ op r1 r2 imm : Nat,
    (decodeFields (encodeFields op r1 r2 imm)).1.toNat = op &&& 0xF ∧
    (decodeFields (encodeFields op r1 r2 imm)).2.reg1.toNat = r1 &&& 0x7 ∧
    (decodeFields (encodeFields op r1 r2 imm)).2.reg2.toNat = r2 &&& 0x7 ∧
    (decodeFields (encodeFields op r1 r2 imm)).2.imm.toNat = imm &&& 0x3F) ∧
  (∀ w : Word,
    encodeFields (decodeFields w).1.toNat (decodeFields w).2.reg1.toNat
      (decodeFields w).2.reg2.toNat (decodeFields w).2.imm.toNat = w)

/-- R53, R55, R57, R73: decode and encode agree on EVERY instruction, every field at every value, and every code
that decodes is the code of what it decodes to. -/
def Obligations.DecodeAndEncodeAgree : Prop :=
  (∀ i : Instr, decode (encode i) = .ok i) ∧
  (∀ (c : Code) (i : Instr), decode c = .ok i → encode i = c)

/-- R61: the worked encodings, both ways (the table is marked "[derived: from rules R53 and R55]"). -/
def Obligations.WorkedEncodingsDecode : Prop :=
  decode (.word 0x1005#16) = .ok (.mov ⟨0, 0, 5⟩) ∧ encode (.mov ⟨0, 0, 5⟩) = .word 0x1005#16 ∧
  decode (.word 0x2003#16) = .ok (.add ⟨0, 0, 3⟩) ∧ encode (.add ⟨0, 0, 3⟩) = .word 0x2003#16 ∧
  decode (.word 0xC000#16) = .ok (.halt ⟨0, 0, 0⟩) ∧ encode (.halt ⟨0, 0, 0⟩) = .word 0xC000#16 ∧
  decode (.word 0x7040#16) = .ok (.div ⟨0, 1, 0⟩) ∧ encode (.div ⟨0, 1, 0⟩) = .word 0x7040#16 ∧
  decode (.word 0x1E3F#16) = .ok (.mov ⟨7, 0, 63⟩) ∧ encode (.mov ⟨7, 0, 63⟩) = .word 0x1E3F#16 ∧
  decode (.word 0xE740#16) = .ok (.store ⟨3, 5, 0⟩) ∧ encode (.store ⟨3, 5, 0⟩) = .word 0xE740#16 ∧
  decode (.word 0xA00A#16) = .ok (.call ⟨0, 0, 10⟩) ∧ encode (.call ⟨0, 0, 10⟩) = .word 0xA00A#16 ∧
  decode (.word 0xFFFF#16) = .ok (.reserved15 ⟨7, 7, 63⟩) ∧
    encode (.reserved15 ⟨7, 7, 63⟩) = .word 0xFFFF#16

/-- R73, R74: the 20 defined control codes and what each selects; the other 44 are refused by name. -/
def Obligations.AluCodeTable : Prop :=
  (decode (.alu6 0b101010#6) = .ok .aluZero ∧ decode (.alu6 0b111111#6) = .ok .aluOne ∧
    decode (.alu6 0b111010#6) = .ok .aluMinus1 ∧ decode (.alu6 0b001100#6) = .ok .aluPassx ∧
    decode (.alu6 0b110000#6) = .ok .aluPassy ∧ decode (.alu6 0b001101#6) = .ok .aluNotx ∧
    decode (.alu6 0b110001#6) = .ok .aluNoty ∧ decode (.alu6 0b001111#6) = .ok .aluNegx ∧
    decode (.alu6 0b110011#6) = .ok .aluNegy ∧ decode (.alu6 0b011111#6) = .ok .aluIncx ∧
    decode (.alu6 0b110111#6) = .ok .aluIncy ∧ decode (.alu6 0b001110#6) = .ok .aluDecx ∧
    decode (.alu6 0b110010#6) = .ok .aluDecy ∧ decode (.alu6 0b000010#6) = .ok .aluAdd ∧
    decode (.alu6 0b010011#6) = .ok .aluSubxy ∧ decode (.alu6 0b000111#6) = .ok .aluSubyx ∧
    decode (.alu6 0b000000#6) = .ok .aluAnd ∧ decode (.alu6 0b010101#6) = .ok .aluOr ∧
    decode (.alu6 0b100000#6) = .ok .aluMul ∧ decode (.alu6 0b100001#6) = .ok .aluDiv) ∧
  (∀ d : AluCode, decode (.alu6 d) = .error (.unimplementedAluCode d) ↔
    d.toNat ∈ [0b000001, 0b000011, 0b000100, 0b000101, 0b000110, 0b001000, 0b001001, 0b001010,
      0b001011, 0b010000, 0b010001, 0b010010, 0b010100, 0b010110, 0b010111, 0b011000, 0b011001,
      0b011010, 0b011011, 0b011100, 0b011101, 0b011110, 0b100010, 0b100011, 0b100100, 0b100101,
      0b100110, 0b100111, 0b101000, 0b101001, 0b101011, 0b101100, 0b101101, 0b101110, 0b101111,
      0b110100, 0b110101, 0b110110, 0b111000, 0b111001, 0b111011, 0b111100, 0b111101, 0b111110])

/-- R56: the fields an instruction does not use take part in no computation. -/
def Obligations.UnusedFieldsAreIgnored : Prop :=
  ∀ (f g : Fields) (s : State),
    exec (.nop f) s = exec (.nop g) s ∧
    exec (.ret f) s = exec (.ret g) s ∧
    exec (.halt f) s = exec (.halt g) s ∧
    exec (.reserved15 f) s = exec (.reserved15 g) s ∧
    (f.reg1 = g.reg1 → f.imm = g.imm →
      exec (.mov f) s = exec (.mov g) s ∧ exec (.add f) s = exec (.add g) s ∧
      exec (.sub f) s = exec (.sub g) s) ∧
    (f.reg1 = g.reg1 → f.reg2 = g.reg2 →
      exec (.and f) s = exec (.and g) s ∧ exec (.or f) s = exec (.or g) s ∧
      exec (.mul f) s = exec (.mul g) s ∧ exec (.div f) s = exec (.div g) s ∧
      exec (.load f) s = exec (.load g) s ∧ exec (.store f) s = exec (.store g) s) ∧
    (f.imm = g.imm →
      exec (.jmp f) s = exec (.jmp g) s ∧ exec (.jz f) s = exec (.jz g) s ∧
      exec (.call f) s = exec (.call g) s)

/-- R56, R59: an assembler line that is no literal assembles, if it assembles, to a word that decodes to a canonical
instruction; and every canonical instruction of format F is the decoding of some line's word. -/
def Obligations.AssemblerWritesTheCanonicalWords : Prop :=
  (∀ (a : Asm) (w : Word), (∀ v, a ≠ .literal v) → assemble a = some w → (decodeWord w).wf = true) ∧
  (∀ w : Word, (decodeWord w).wf = true → ∃ a : Asm, (∀ v, a ≠ .literal v) ∧ assemble a = some w) ∧
  (∀ v : Nat, assemble (.literal v) = if v < 65536 then some (BitVec.ofNat 16 v) else none)

/-! ## NOP, MOV and the arithmetic and logic instructions -/

/-- R140: NOP. -/
def Obligations.NopChangesNothing : Prop :=
  (∀ (a b : RegNum) (i : Imm6), decodeWord (0#4 ++ a ++ b ++ i) = .nop ⟨a, b, i⟩) ∧
  (∀ (f : Fields) (s : State), exec (.nop f) s = .next s) ∧
  (∀ (s : State) (w : Word), s.Fetches w → w.extractLsb' 12 4 = 0#4 →
    step s = .next { s with ip := s.ip + 1#16 })

/-- R141: MOV. -/
def Obligations.MovWritesTheImmediate : Prop :=
  (∀ (a b : RegNum) (i : Imm6), decodeWord (1#4 ++ a ++ b ++ i) = .mov ⟨a, b, i⟩) ∧
  (∀ (f : Fields) (s : State), exec (.mov f) s = .next
    { s with regs := s.regs.set f.reg1.toNat (BitVec.ofNat 16 f.imm.toNat) f.reg1.isLt })

/-- R145: ADD: the wrapped sum, and the four flags. That `ov` is signed overflow in numbers is the spec's own inference,
"`ov = 1` iff `s(R[reg1]) + imm > 32767`, …" (R145, marked as derived from R93); the two-sided form is
R93's, "1 iff `s(x) + s(y)` lies outside −32768 to 32767". -/
def Obligations.AddSumsWithCarryAndSignedOverflow : Prop :=
  (∀ (a b : RegNum) (i : Imm6), decodeWord (2#4 ++ a ++ b ++ i) = .add ⟨a, b, i⟩) ∧
  (∀ (f : Fields) (s : State),
    exec (.add f) s = .next
      { s with
        regs := s.regs.set f.reg1.toNat
          (BitVec.ofNat 16 ((s.reg f.reg1).toNat + f.imm.toNat)) f.reg1.isLt
        flags :=
          { zr := decide (((s.reg f.reg1).toNat + f.imm.toNat) % 65536 = 0)
            ng := (BitVec.ofNat 16 ((s.reg f.reg1).toNat + f.imm.toNat)).getLsbD 15
            ov := decide ((s.reg f.reg1).toInt + (f.imm.toNat : Int) < -32768 ∨
              32767 < (s.reg f.reg1).toInt + (f.imm.toNat : Int))
            cy := decide (65536 ≤ (s.reg f.reg1).toNat + f.imm.toNat) } })

/-- R146: SUB: the wrapped difference, the borrow, and the overflow heuristic in numbers. The numbers are the spec's own
inference, "In numbers: `ov = 1` iff `0x8000 <= u(before) < 0x8000 + imm`" (R146). -/
def Obligations.SubBorrowsAndOverflowsAsItsHeuristicSays : Prop :=
  (∀ (a b : RegNum) (i : Imm6), decodeWord (3#4 ++ a ++ b ++ i) = .sub ⟨a, b, i⟩) ∧
  (∀ (f : Fields) (s : State),
    exec (.sub f) s = .next
      { s with
        regs := s.regs.set f.reg1.toNat
          (BitVec.ofInt 16 ((s.reg f.reg1).toNat - (f.imm.toNat : Int))) f.reg1.isLt
        flags :=
          { zr := decide ((s.reg f.reg1).toNat = f.imm.toNat)
            ng := (BitVec.ofInt 16 ((s.reg f.reg1).toNat - (f.imm.toNat : Int))).getLsbD 15
            ov := decide (0x8000 ≤ (s.reg f.reg1).toNat ∧ (s.reg f.reg1).toNat < 0x8000 + f.imm.toNat)
            cy := decide ((s.reg f.reg1).toNat < f.imm.toNat) } })

/-- R147, R148: AND and OR: `zr` and `ng` from the result, `ov` and `cy` kept. -/
def Obligations.AndOrWriteResultAndTwoFlags : Prop :=
  (∀ (a b : RegNum) (i : Imm6), decodeWord (4#4 ++ a ++ b ++ i) = .and ⟨a, b, i⟩ ∧
    decodeWord (5#4 ++ a ++ b ++ i) = .or ⟨a, b, i⟩) ∧
  (∀ (f : Fields) (s : State),
    exec (.and f) s = .next
      { s with
        regs := s.regs.set f.reg1.toNat (s.reg f.reg1 &&& s.reg f.reg2) f.reg1.isLt
        flags :=
          { zr := decide (s.reg f.reg1 &&& s.reg f.reg2 = 0#16)
            ng := (s.reg f.reg1).getLsbD 15 && (s.reg f.reg2).getLsbD 15
            ov := s.flags.ov
            cy := s.flags.cy } } ∧
    exec (.or f) s = .next
      { s with
        regs := s.regs.set f.reg1.toNat (s.reg f.reg1 ||| s.reg f.reg2) f.reg1.isLt
        flags :=
          { zr := decide (s.reg f.reg1 = 0#16 ∧ s.reg f.reg2 = 0#16)
            ng := (s.reg f.reg1).getLsbD 15 || (s.reg f.reg2).getLsbD 15
            ov := s.flags.ov
            cy := s.flags.cy } })

/-- R149: MUL: the low half of the unsigned product, `ov` iff it does not fit, `cy` cleared. -/
def Obligations.MulKeepsTheLowHalfOfTheProduct : Prop :=
  (∀ (a b : RegNum) (i : Imm6), decodeWord (6#4 ++ a ++ b ++ i) = .mul ⟨a, b, i⟩) ∧
  (∀ (f : Fields) (s : State),
    exec (.mul f) s = .next
      { s with
        regs := s.regs.set f.reg1.toNat (s.reg f.reg1 * s.reg f.reg2) f.reg1.isLt
        flags :=
          { zr := decide ((s.reg f.reg1).toNat * (s.reg f.reg2).toNat % 65536 = 0)
            ng := (s.reg f.reg1 * s.reg f.reg2).getLsbD 15
            ov := decide (65535 < (s.reg f.reg1).toNat * (s.reg f.reg2).toNat)
            cy := false } })

/-- R150, R182: DIV: the unsigned quotient, `zr` and `ng` from it, `ov` and `cy` kept; a zero divisor stops the engine and
changes nothing else. The two clauses exclude each other by the divisor. -/
def Obligations.DivDividesOrStops : Prop :=
  (∀ (a b : RegNum) (i : Imm6), decodeWord (7#4 ++ a ++ b ++ i) = .div ⟨a, b, i⟩) ∧
  (∀ (f : Fields) (s : State), s.reg f.reg2 ≠ 0#16 →
    exec (.div f) s = .next
      { s with
        regs := s.regs.set f.reg1.toNat (s.reg f.reg1 / s.reg f.reg2) f.reg1.isLt
        flags :=
          { zr := decide ((s.reg f.reg1).toNat / (s.reg f.reg2).toNat = 0)
            ng := (s.reg f.reg1 / s.reg f.reg2).getLsbD 15
            ov := s.flags.ov
            cy := s.flags.cy } }) ∧
  (∀ (f : Fields) (s : State), s.reg f.reg2 = 0#16 →
    exec (.div f) s = .next { s with running := false, reason := .divideByZero })

/-! ## Control transfer and the stops -/

/-- R160, R161: JMP, and JZ in both cases of the stored flag. -/
def Obligations.JumpsReplaceIp : Prop :=
  (∀ (a b : RegNum) (i : Imm6), decodeWord (8#4 ++ a ++ b ++ i) = .jmp ⟨a, b, i⟩ ∧
    decodeWord (9#4 ++ a ++ b ++ i) = .jz ⟨a, b, i⟩) ∧
  (∀ (f : Fields) (s : State),
    exec (.jmp f) s = .next { s with ip := BitVec.ofNat 16 f.imm.toNat } ∧
    exec (.jz f) s = .next (if s.flags.zr then { s with ip := BitVec.ofNat 16 f.imm.toNat } else s))

/-- R162, R183: CALL with room on the stack pushes the return address (IP, already advanced), jumps and counts, with no
port effect; at SP 0 it stops and nothing else happens. The word pushed is stored at address SP. -/
def Obligations.CallPushesAndJumpsOrOverflows : Prop :=
  (∀ (a b : RegNum) (i : Imm6), decodeWord (10#4 ++ a ++ b ++ i) = .call ⟨a, b, i⟩) ∧
  (∀ (f : Fields) (s : State), 1 ≤ s.sp.toNat → s.sp.toNat ≤ 399 →
    ∃ t : State, exec (.call f) s = .next t ∧
      t = { s with
            mem := t.mem
            sp := s.sp - 1#16
            ip := BitVec.ofNat 16 f.imm.toNat
            depth := (s.depth + 1) % 2 ^ s.depthBits } ∧
      (s.mem.wf = true → ∀ a : Nat, t.mem.get a = if a = s.sp.toNat then s.ip else s.mem.get a)) ∧
  (∀ (f : Fields) (s : State), s.sp.toNat = 0 →
    exec (.call f) s = .next { s with running := false, reason := .stackOverflow })

/-- R163, R184: RET pops the whole word above SP into IP and leaves memory and DEPTH as they are; at SP 399 it stops and
nothing else happens. -/
def Obligations.RetPopsOrUnderflows : Prop :=
  (∀ (a b : RegNum) (i : Imm6), decodeWord (11#4 ++ a ++ b ++ i) = .ret ⟨a, b, i⟩) ∧
  (∀ (f : Fields) (s : State), s.sp.toNat ≤ 398 →
    exec (.ret f) s = .next { s with sp := s.sp + 1#16, ip := s.mem.get (s.sp.toNat + 1) }) ∧
  (∀ (f : Fields) (s : State), s.sp.toNat = 399 →
    exec (.ret f) s = .next { s with running := false, reason := .stackUnderflow })

/-- R13, R33: "The stack accesses are always in that range", 0 to 399, and "Word 0 of memory is never a stack slot": from every
state that meets the invariant (R13, R131, marked as derived; a statement of its own), every instruction completes with
SP still 0 to 399, CALL writes at most the slot SP, 1 to 399, RET reads a slot 1 to 399 and erases nothing, and
no number of steps ends in a fault or a refusal. -/
def Obligations.StackAccessesStayInMemory : Prop :=
  (∀ (i : Instr) (s : State), s.Inv → ∃ t : State, exec i s = .next t ∧ t.sp.toNat ≤ 399) ∧
  (∀ (f : Fields) (s : State), s.Inv →
    ∃ t : State, exec (.call f) s = .next t ∧ t.sp.toNat = s.sp.toNat - 1 ∧
      (∀ a : Nat, t.mem.get a ≠ s.mem.get a → a = s.sp.toNat ∧ 1 ≤ a ∧ a ≤ 399)) ∧
  (∀ (f : Fields) (s : State), s.Inv →
    ∃ t : State, exec (.ret f) s = .next t ∧ t.sp.toNat = min (s.sp.toNat + 1) 399 ∧ t.mem = s.mem ∧
      (t.sp ≠ s.sp → 1 ≤ t.sp.toNat ∧ t.sp.toNat ≤ 399 ∧ t.ip = s.mem.get t.sp.toNat)) ∧
  (∀ (k : Nat) (s : State), s.Inv → ∃ t : State, Sys2Proof.core.run k s = .next t ∧ t.Inv)

/-- R164, R181: HALT. -/
def Obligations.HaltStopsNormally : Prop :=
  (∀ (a b : RegNum) (i : Imm6), decodeWord (12#4 ++ a ++ b ++ i) = .halt ⟨a, b, i⟩) ∧
  (∀ (f : Fields) (s : State),
    exec (.halt f) s = .next { s with running := false, reason := .halt })

/-- R57, R185: opcode 15 stops the engine as an unimplemented instruction; after the fetch, IP is one further. -/
def Obligations.ReservedOpcodeStops : Prop :=
  (∀ (a b : RegNum) (i : Imm6), decodeWord (15#4 ++ a ++ b ++ i) = .reserved15 ⟨a, b, i⟩) ∧
  (∀ (f : Fields) (s : State),
    exec (.reserved15 f) s = .next { s with running := false, reason := .unimplementedInstruction }) ∧
  (∀ (s : State) (w : Word), s.Fetches w → 0xF000 ≤ w.toNat →
    step s = .next
      { s with ip := s.ip + 1#16, running := false, reason := .unimplementedInstruction })

/-! ## LOAD, STORE and the memory -/

/-- R31, R32: the bounded read and the bounded write at every address, and the byte a write to 32 emits. -/
def Obligations.MemReadAndMemWriteAreTotal : Prop :=
  (∀ (s : State) (a : Word),
    s.memRead a = if a.toNat < 400 then s.mem.get a.toNat else 0#16) ∧
  (∀ (s : State) (a v : Word),
    s.memWrite a v =
      { s with
        mem := (s.memWrite a v).mem
        out := if a.toNat = 32 then s.out ++ [v.setWidth 8] else s.out }) ∧
  (∀ (s : State) (a v b : Word), s.mem.wf = true →
    (s.memWrite a v).memRead b = if b = a ∧ a.toNat < 400 then v else s.memRead b)

/-- R175: LOAD. -/
def Obligations.LoadReadsMemoryOrZero : Prop :=
  (∀ (a b : RegNum) (i : Imm6), decodeWord (13#4 ++ a ++ b ++ i) = .load ⟨a, b, i⟩) ∧
  (∀ (f : Fields) (s : State),
    exec (.load f) s = .next
      { s with
        regs := s.regs.set f.reg1.toNat
          (if (s.reg f.reg2).toNat < 400 then s.mem.get (s.reg f.reg2).toNat else 0#16) f.reg1.isLt })

/-- R176: STORE: the word at the address in `R[reg2]` and no other, the byte at the port, nothing at 400 and above. -/
def Obligations.StoreWritesOneWordAndThePort : Prop :=
  (∀ (a b : RegNum) (i : Imm6), decodeWord (14#4 ++ a ++ b ++ i) = .store ⟨a, b, i⟩) ∧
  (∀ (f : Fields) (s : State),
    ∃ t : State, exec (.store f) s = .next t ∧
      t = { s with
            mem := t.mem
            out := if (s.reg f.reg2).toNat = 32 then s.out ++ [(s.reg f.reg1).setWidth 8] else s.out } ∧
      (400 ≤ (s.reg f.reg2).toNat → t = s) ∧
      (s.mem.wf = true → ∀ a : Nat,
        t.mem.get a = if a = (s.reg f.reg2).toNat ∧ a < 400 then s.reg f.reg1 else s.mem.get a))

/-! ## The ALU -/

/-- R70, R73: each ALU6 row answers, on the ALU's outputs, with what `ALU(x, y, d)` gives for its code on the words at the
operand inputs, and leaves everything else. That these are fields of State is the model's choice (log entry 4). -/
def Obligations.AluRowsAnswerWithTheirFunction : Prop :=
  ∀ s : State,
    let answer := fun d : AluCode => { s with alu := { s.alu with out := aluCompute s.alu.x s.alu.y d } }
    exec .aluZero s = .next (answer 0b101010) ∧ exec .aluOne s = .next (answer 0b111111) ∧
    exec .aluMinus1 s = .next (answer 0b111010) ∧ exec .aluPassx s = .next (answer 0b001100) ∧
    exec .aluPassy s = .next (answer 0b110000) ∧ exec .aluNotx s = .next (answer 0b001101) ∧
    exec .aluNoty s = .next (answer 0b110001) ∧ exec .aluNegx s = .next (answer 0b001111) ∧
    exec .aluNegy s = .next (answer 0b110011) ∧ exec .aluIncx s = .next (answer 0b011111) ∧
    exec .aluIncy s = .next (answer 0b110111) ∧ exec .aluDecx s = .next (answer 0b001110) ∧
    exec .aluDecy s = .next (answer 0b110010) ∧ exec .aluAdd s = .next (answer 0b000010) ∧
    exec .aluSubxy s = .next (answer 0b010011) ∧ exec .aluSubyx s = .next (answer 0b000111) ∧
    exec .aluAnd s = .next (answer 0b000000) ∧ exec .aluOr s = .next (answer 0b010101) ∧
    exec .aluMul s = .next (answer 0b100000) ∧ exec .aluDiv s = .next (answer 0b100001)

/-- R80, R81, R82: the constants. -/
def Obligations.AluConstants : Prop :=
  ∀ x y : Word,
    aluCompute x y 0b101010 = ⟨0x0000#16, ⟨true, false, false, false⟩, .ok⟩ ∧
    aluCompute x y 0b111111 = ⟨0x0001#16, ⟨false, false, false, false⟩, .ok⟩ ∧
    aluCompute x y 0b111010 = ⟨0xFFFF#16, ⟨false, true, false, false⟩, .ok⟩

/-- R83 to R86: pass and complement. -/
def Obligations.AluPassAndComplement : Prop :=
  ∀ x y : Word,
    aluCompute x y 0b001100 = ⟨x, ⟨decide (x = 0#16), x.getLsbD 15, false, false⟩, .ok⟩ ∧
    aluCompute x y 0b110000 = ⟨y, ⟨decide (y = 0#16), y.getLsbD 15, false, false⟩, .ok⟩ ∧
    aluCompute x y 0b001101 = ⟨BitVec.ofNat 16 (0xFFFF - x.toNat),
      ⟨decide (x = 0xFFFF#16), !x.getLsbD 15, false, false⟩, .ok⟩ ∧
    aluCompute x y 0b110001 = ⟨BitVec.ofNat 16 (0xFFFF - y.toNat),
      ⟨decide (y = 0xFFFF#16), !y.getLsbD 15, false, false⟩, .ok⟩

/-- R87, R88, R91, R92: negate and decrement; `cy` and `ov` stay 0. -/
def Obligations.AluNegateAndDecrement : Prop :=
  ∀ x y : Word,
    aluCompute x y 0b001111 = ⟨BitVec.ofInt 16 (-(x.toNat : Int)),
      ⟨decide (x.toNat = 0), (BitVec.ofInt 16 (-(x.toNat : Int))).getLsbD 15, false, false⟩, .ok⟩ ∧
    aluCompute x y 0b110011 = ⟨BitVec.ofInt 16 (-(y.toNat : Int)),
      ⟨decide (y.toNat = 0), (BitVec.ofInt 16 (-(y.toNat : Int))).getLsbD 15, false, false⟩, .ok⟩ ∧
    aluCompute x y 0b001110 = ⟨BitVec.ofInt 16 ((x.toNat : Int) - 1),
      ⟨decide (x.toNat = 1), (BitVec.ofInt 16 ((x.toNat : Int) - 1)).getLsbD 15, false, false⟩, .ok⟩ ∧
    aluCompute x y 0b110010 = ⟨BitVec.ofInt 16 ((y.toNat : Int) - 1),
      ⟨decide (y.toNat = 1), (BitVec.ofInt 16 ((y.toNat : Int) - 1)).getLsbD 15, false, false⟩, .ok⟩

/-- R89, R90: increment: `cy` is 1 iff the operand is 0xFFFF, `ov` is 0. -/
def Obligations.AluIncrementCarriesOnlyFromAllOnes : Prop :=
  ∀ x y : Word,
    aluCompute x y 0b011111 = ⟨x + 1#16,
      ⟨decide (x = 0xFFFF#16), (x + 1#16).getLsbD 15, false, decide (x = 0xFFFF#16)⟩, .ok⟩ ∧
    aluCompute x y 0b110111 = ⟨y + 1#16,
      ⟨decide (y = 0xFFFF#16), (y + 1#16).getLsbD 15, false, decide (y = 0xFFFF#16)⟩, .ok⟩

/-- R93: add: wraparound, "the true carry-out bit", and `ov` iff the signed sum leaves -32768 to 32767. -/
def Obligations.AluAddCarryAndSignedOverflow : Prop :=
  ∀ x y : Word,
    aluCompute x y 0b000010 = ⟨x + y,
      ⟨decide (x + y = 0#16), (x + y).getLsbD 15,
        decide (x.toInt + y.toInt < -32768 ∨ 32767 < x.toInt + y.toInt),
        decide (65536 ≤ x.toNat + y.toNat)⟩, .ok⟩

/-- R94, R95: the subtract functions: the borrow by comparing the operands, `ov` iff the signed difference leaves -32768
to 32767; the second with the operands exchanged. -/
def Obligations.AluSubtractBorrowAndSignedOverflow : Prop :=
  ∀ x y : Word,
    aluCompute x y 0b010011 = ⟨x - y,
      ⟨decide (x = y), (x - y).getLsbD 15,
        decide (x.toInt - y.toInt < -32768 ∨ 32767 < x.toInt - y.toInt),
        decide (x.toNat < y.toNat)⟩, .ok⟩ ∧
    aluCompute x y 0b000111 = ⟨y - x,
      ⟨decide (x = y), (y - x).getLsbD 15,
        decide (y.toInt - x.toInt < -32768 ∨ 32767 < y.toInt - x.toInt),
        decide (y.toNat < x.toNat)⟩, .ok⟩

/-- R96, R97: bitwise and, bitwise or. -/
def Obligations.AluAndOr : Prop :=
  ∀ x y : Word,
    aluCompute x y 0b000000 = ⟨x &&& y,
      ⟨decide (x &&& y = 0#16), x.getLsbD 15 && y.getLsbD 15, false, false⟩, .ok⟩ ∧
    aluCompute x y 0b010101 = ⟨x ||| y,
      ⟨decide (x = 0#16 ∧ y = 0#16), x.getLsbD 15 || y.getLsbD 15, false, false⟩, .ok⟩

/-- R98, R99: multiply and divide; a zero divisor gives 0 with `ov` 1 and the condition `div_zero`. -/
def Obligations.AluMultiplyAndDivide : Prop :=
  ∀ x y : Word,
    aluCompute x y 0b100000 = ⟨x * y,
      ⟨decide (x.toNat * y.toNat % 65536 = 0), (x * y).getLsbD 15,
        decide (65535 < x.toNat * y.toNat), false⟩, .ok⟩ ∧
    aluCompute x y 0b100001 =
      if y = 0#16 then ⟨0#16, ⟨true, false, true, false⟩, .divZero⟩
      else ⟨x / y, ⟨decide (x.toNat < y.toNat), (x / y).getLsbD 15, false, false⟩, .ok⟩

/-- R75: the cascade's carries and sum bits, and what they come to, which the spec marks as derived: the wrapped sum and "the
true carry-out bit". -/
def Obligations.RippleAdderAddsWithTrueCarry : Prop :=
  ∀ a b : Word,
    rippleCarry a b 0 = false ∧
    (∀ i : Nat, rippleCarry a b (i + 1) =
      ((a.getLsbD i && b.getLsbD i) || (rippleCarry a b i && (a.getLsbD i ^^ b.getLsbD i)))) ∧
    (∀ i : Nat, i < 16 →
      (add16 a b).1.getLsbD i = ((a.getLsbD i ^^ b.getLsbD i) ^^ rippleCarry a b i)) ∧
    (add16 a b).2 = rippleCarry a b 16 ∧
    (add16 a b).1.toNat = (a.toNat + b.toNat) % 65536 ∧
    ((add16 a b).2 = true ↔ 65536 ≤ a.toNat + b.toNat)

/-- R76: `zr` and `ng` of every defined code. -/
def Obligations.AluZeroAndNegativeFollowTheResult : Prop :=
  ∀ (x y : Word) (g : AluFn),
    ((aluCompute x y (aluCode g)).flags.zr = true ↔ (aluCompute x y (aluCode g)).out.toNat = 0) ∧
    (aluCompute x y (aluCode g)).flags.ng = (aluCompute x y (aluCode g)).out.getLsbD 15 ∧
    ¬ ((aluCompute x y (aluCode g)).flags.zr = true ∧ (aluCompute x y (aluCode g)).flags.ng = true)

/-- R103: which condition the ALU reports, for every operand pair and every code. -/
def Obligations.AluConditionIsExact : Prop :=
  ∀ (x y : Word) (d : AluCode),
    ((aluCompute x y d).cond = .unimplementedCode ↔ ∀ g : AluFn, d ≠ aluCode g) ∧
    ((aluCompute x y d).cond = .divZero ↔ d = aluCode .div ∧ y = 0#16) ∧
    ((aluCompute x y d).cond = .ok ↔ (∃ g : AluFn, d = aluCode g) ∧ ¬ (d = aluCode .div ∧ y = 0#16))

/-- R101: for the eighteen textbook codes the generic pipeline gives the named function's result. -/
def Obligations.PipelineComputesTheTextbookFunctions : Prop :=
  ∀ (x y : Word) (g : AluFn), g ≠ .mul → g ≠ .div →
    (aluApply g x y).out = aluPipeline x y (aluCode g)

/-- R104, R128: the engine drives the ALU for ADD and MUL with their two codes, copies the result and all four flags, and
the condition is always `ok`. -/
def Obligations.EngineDrivesTheAluForAddAndMul : Prop :=
  (∀ (f : Fields) (s : State),
    exec (.add f) s = .next
      { s with
        regs := s.regs.set f.reg1.toNat
          (aluCompute (s.reg f.reg1) (BitVec.ofNat 16 f.imm.toNat) 0b000010).out f.reg1.isLt
        flags := (aluCompute (s.reg f.reg1) (BitVec.ofNat 16 f.imm.toNat) 0b000010).flags }) ∧
  (∀ (f : Fields) (s : State),
    exec (.mul f) s = .next
      { s with
        regs := s.regs.set f.reg1.toNat
          (aluCompute (s.reg f.reg1) (s.reg f.reg2) 0b100000).out f.reg1.isLt
        flags := (aluCompute (s.reg f.reg1) (s.reg f.reg2) 0b100000).flags }) ∧
  (∀ x y : Word, (aluCompute x y 0b000010).cond = .ok ∧ (aluCompute x y 0b100000).cond = .ok)

/-- R70, R74, R77, R187; that the code stands in State and is answered by a step is THE MODEL'S CHOICE (log entry 4): a code
presented at the ALU's own interface, defined or not, is answered with what the ALU gives for it, and
nothing of the engine changes. -/
def Obligations.PresentedAluCodeIsAnswered : Prop :=
  (∀ (s : State) (d : AluCode), s.alu.drive = some d →
    step s = .next
      { s with alu := { s.alu with drive := none, out := aluCompute s.alu.x s.alu.y d } }) ∧
  (∀ (s : State) (d : AluCode), s.alu.drive = some d → (∀ g : AluFn, d ≠ aluCode g) →
    ∃ t : State, step s = .next t ∧ t = { s with alu := t.alu } ∧
      t.alu.out.cond = .unimplementedCode)

/-! ## The engine -/

/-- R122, R123, R124: the step of a running engine runs the decoded instruction after the advance of IP. The clause on a
control code is the model's (log entry 4). -/
def Obligations.StepRunsTheDecodedInstruction : Prop :=
  (∀ (s : State) (w : Word), s.Fetches w →
    step s = exec (decodeWord w) { s with ip := s.ip + 1#16 }) ∧
  (∀ (s : State) (d : AluCode) (i : Instr), s.alu.drive = some d → decode (.alu6 d) = .ok i →
    step s = exec i { s with alu := { s.alu with drive := none } })

/-- R122, R186: a fetch with IP of 400 or more stops the engine and changes nothing else. -/
def Obligations.FetchOutOfRangeStops : Prop :=
  ∀ s : State, s.running = true → s.alu.drive = none → 400 ≤ s.ip.toNat →
    step s = .next { s with running := false, reason := .fetchOutOfRange }

/-- R127: Halted absorbs: no number of `exec1` and no outer step changes a halted engine. (With a code presented at the ALU's own
interface, log entry 4, only that interface changes.) -/
def Obligations.HaltedAbsorbs : Prop :=
  (∀ (k : Nat) (s : State), s.running = false → s.alu.drive = none →
    Sys2Proof.core.run k s = .next s ∧ outerStep (k + 1) s = some s) ∧
  (∀ (k : Nat) (s t : State), s.running = false → Sys2Proof.core.run k s = .next t →
    t = { s with alu := t.alu })

/-- R22: the state after reset, every element the rule lists. -/
def Obligations.ResetValues : Prop :=
  (∀ i : RegNum, State.reset.reg i = 0#16) ∧
  State.reset.ip = 0#16 ∧ State.reset.sp = 399#16 ∧
  State.reset.flags = ⟨false, false, false, false⟩ ∧
  State.reset.running = true ∧ State.reset.reason = StopReason.none ∧ State.reset.depth = 0 ∧
  (∀ a : Nat, State.reset.mem.get a = 0#16) ∧
  State.reset.out = []

/-- R210, R211, R22: loading at most 400 words gives the reset values, word i of the program at address i, zeros after it and
no output, whatever the words are; more words are refused. (`alu` and `depthBits` are the model's: log entries 4, 1.) -/
def Obligations.LoadPlacesTheProgram : Prop :=
  (∀ p : List Word, p.length ≤ 400 →
    ∃ s : State, State.load p = some s ∧ s.Inv ∧
      s =
        { regs := Vector.replicate 8 0#16, ip := 0#16, sp := 399#16
          flags := ⟨false, false, false, false⟩, running := true, reason := .none, depth := 0
          mem := s.mem, out := [], alu := State.reset.alu, depthBits := State.reset.depthBits } ∧
      (∀ i : Nat, s.mem.get i = (p[i]?).getD 0#16)) ∧
  (∀ p : List Word, 400 < p.length → State.load p = none)

/-- R131, R13, R15 (invariants the spec marks as derived): the invariant holds after reset. -/
def Obligations.ResetMeetsTheInvariant : Prop := State.reset.Inv

/-- R131, R13, R15 (invariants the spec marks as derived): from every state that meets the invariant,
every step that answers a next state gives one that meets it. -/
def Obligations.EveryStepKeepsTheInvariant : Prop :=
  ∀ s t : State, s.Inv → step s = .next t → t.Inv

/-- R125, R220: from every state that meets the invariant the step answers a next state: no fault, no refusal. -/
def Obligations.EveryStepCompletes : Prop :=
  ∀ s : State, s.Inv → ∃ t : State, step s = .next t

/-- R190: what a stop changes: `running`, `reason` and, after a fetch, IP, which is one further. -/
def Obligations.StopChangesOnlyStatusAndIp : Prop :=
  ∀ s t : State, s.running = true → step s = .next t → t.running = false →
    t = { s with running := false, reason := t.reason, ip := t.ip } ∧
    ((t.reason = .fetchOutOfRange ∧ t.ip = s.ip) ∨
      (t.reason ∈ [StopReason.halt, .divideByZero, .stackOverflow, .stackUnderflow,
        .unimplementedInstruction] ∧ t.ip = s.ip + 1#16))

/-- R180 to R186, R189: each reason is set by exactly its cause, and nothing else stops the engine. -/
def Obligations.EachStopHasItsOneCause : Prop :=
  ∀ s t : State, s.running = true → s.reason = .none → s.alu.drive = none → step s = .next t →
    let w := s.mem.get s.ip.toNat
    let op := w.extractLsb' 12 4
    (t.reason = .fetchOutOfRange ↔ 400 ≤ s.ip.toNat) ∧
    (t.reason = .halt ↔ s.ip.toNat < 400 ∧ op = 12#4) ∧
    (t.reason = .divideByZero ↔ s.ip.toNat < 400 ∧ op = 7#4 ∧ s.reg (w.extractLsb' 6 3) = 0#16) ∧
    (t.reason = .stackOverflow ↔ s.ip.toNat < 400 ∧ op = 10#4 ∧ s.sp.toNat = 0) ∧
    (t.reason = .stackUnderflow ↔ s.ip.toNat < 400 ∧ op = 11#4 ∧ s.sp.toNat = 399) ∧
    (t.reason = .unimplementedInstruction ↔ s.ip.toNat < 400 ∧ op = 15#4) ∧
    (t.running = true ↔ t.reason = .none)

/-- R14: which instructions write which flags. -/
def Obligations.FlagsAreWrittenOnlyByArithmeticAndLogic : Prop :=
  ∀ (s t : State) (w : Word), s.Fetches w → step s = .next t →
    (w.extractLsb' 12 4 ∉ [2#4, 3#4, 4#4, 5#4, 6#4, 7#4] → t.flags = s.flags) ∧
    (w.extractLsb' 12 4 ∈ [4#4, 5#4, 7#4] → t.flags.ov = s.flags.ov ∧ t.flags.cy = s.flags.cy)

/-- R11: the register write table: at most `R[reg1]`, and only by MOV, ADD, SUB, AND, OR, MUL, DIV and LOAD. -/
def Obligations.OnlyTheDestinationRegisterIsWritten : Prop :=
  ∀ (s t : State) (w : Word) (j : RegNum), s.Fetches w → step s = .next t → t.reg j ≠ s.reg j →
    j = w.extractLsb' 9 3 ∧
      w.extractLsb' 12 4 ∈ [1#4, 2#4, 3#4, 4#4, 5#4, 6#4, 7#4, 13#4]

/-- R36, R38: a step changes at most one word of memory: the one STORE addresses, or the stack slot CALL pushes to. -/
def Obligations.OnlyStoreAndCallWriteOneWord : Prop :=
  ∀ (s t : State) (w : Word) (a : Nat), s.mem.wf = true → s.Fetches w → step s = .next t →
    t.mem.get a ≠ s.mem.get a →
      (w.extractLsb' 12 4 = 14#4 ∧ a = (s.reg (w.extractLsb' 6 3)).toNat ∧ a < 400) ∨
      (w.extractLsb' 12 4 = 10#4 ∧ a = s.sp.toNat ∧ 1 ≤ a ∧ a < 400)

/-- R12, R13, R16, R122: who writes SP, DEPTH and IP. -/
def Obligations.ControlStateHasItsWriters : Prop :=
  ∀ (s t : State) (w : Word), s.Fetches w → step s = .next t →
    (w.extractLsb' 12 4 ∉ [10#4, 11#4] → t.sp = s.sp) ∧
    (w.extractLsb' 12 4 ≠ 10#4 → t.depth = s.depth) ∧
    (w.extractLsb' 12 4 ∉ [8#4, 9#4, 10#4, 11#4] → t.ip = s.ip + 1#16) ∧
    (w.extractLsb' 12 4 ∈ [8#4, 9#4, 10#4] → t.ip = s.ip + 1#16 ∨ t.ip = (w.extractLsb' 0 6).setWidth 16)

/-- R18, R42, R195: OUT grows by one byte exactly when a STORE writes address 32, by the low byte of the value, and
otherwise stays. -/
def Obligations.OnlyAStoreToThePortEmits : Prop :=
  ∀ (s t : State) (w : Word), s.Fetches w → step s = .next t →
    t.out =
      if w.extractLsb' 12 4 = 14#4 ∧ (s.reg (w.extractLsb' 6 3)).toNat = 32
      then s.out ++ [(s.reg (w.extractLsb' 9 3)).setWidth 8] else s.out

/-- R18, R42, R131: over any number of steps the bytes already emitted stay, in order, at the front of OUT. -/
def Obligations.OutputOnlyGrows : Prop :=
  ∀ (k : Nat) (s t : State), Sys2Proof.core.run k s = .next t → s.out <+: t.out

/-- R163, R162: a RET that follows a CALL, with stack pointer and stack slot as the CALL left them, returns to the
instruction after the CALL with SP as before it. -/
def Obligations.RetReturnsAfterItsCall : Prop :=
  ∀ (f g : Fields) (s t u : State), s.mem.wf = true → 1 ≤ s.sp.toNat → s.sp.toNat ≤ 399 →
    exec (.call f) s = .next t → u.sp = t.sp → u.mem.get s.sp.toNat = t.mem.get s.sp.toNat →
      exec (.ret g) u = .next { u with sp := s.sp, ip := s.ip }

/-- R41, R219: a word that a STORE puts at the address of the next instruction is what the next step fetches. -/
def Obligations.StoredWordIsFetchedNext : Prop :=
  ∀ (s : State) (w : Word), s.mem.wf = true → s.Fetches w → w.extractLsb' 12 4 = 14#4 →
    s.ip.toNat + 1 < 400 → (s.reg (w.extractLsb' 6 3)).toNat = s.ip.toNat + 1 →
      ∃ t : State, step s = .next t ∧ t.Fetches (s.reg (w.extractLsb' 9 3)) ∧
        step t = exec (decodeWord (s.reg (w.extractLsb' 9 3))) { t with ip := t.ip + 1#16 }

/-- R14, R16, R18: the flags `ng`, `ov` and `cy`, DEPTH and OUT are read by nothing that steers the machine: two states that
differ at most in those step to states that differ at most in those. Two more parts are let differ, both THE
MODEL'S OWN fields: the width `depthBits` (log entry 1) and the outputs last seen at the ALU's own interface, `alu.out`
(log entry 4); by R19 and R77 the ALU keeps nothing from call to call. -/
def Obligations.UnreadStateInfluencesNothing : Prop :=
  ∀ s s' : State, s.unread = s'.unread →
    (∀ t : State, step s = .next t → ∃ t' : State, step s' = .next t' ∧ t.unread = t'.unread) ∧
    (∀ e : Fault, step s = .fault e → step s' = .fault e) ∧
    (∀ r : Refusal, step s ≠ .refused r)

/-- THE MODEL'S OWN FIELDS (log entries 1 and 4): no step changes DEPTH_BITS or the ALU's operand inputs, and none leaves a
code presented to the ALU. -/
def Obligations.StepsLeaveTheModelsInputsAlone : Prop :=
  ∀ s t : State, step s = .next t →
    t.depthBits = s.depthBits ∧ t.alu.x = s.alu.x ∧ t.alu.y = s.alu.y ∧ t.alu.drive = none ∧
    (s.alu.drive = none → t.alu = s.alu)

/-- R126, R129, R130: an outer step is some number of `exec1`, one at least; each but the last runs a CALL or a RET, and
after the last the engine is halted or the last was neither. Where `run` answers, the engine is halted, and the
answer is the state some number of `exec1` gives. (Fuel bounds both: log entry 11.) -/
def Obligations.OuterStepAndRunGroupSteps : Prop :=
  (∀ (n : Nat) (s t : State), outerStep n s = some t →
    ∃ k : Nat, 1 ≤ k ∧ k ≤ n ∧ Sys2Proof.core.run k s = .next t ∧
      (∀ j : Nat, j < k → ∃ u : State, Sys2Proof.core.run j s = .next u ∧
        (j + 1 < k → u.issuesCallOrRet = true) ∧
        (j + 1 = k → t.running = false ∨ u.issuesCallOrRet = false))) ∧
  (∀ (n : Nat) (s t : State), Machine.run n s = some t →
    t.running = false ∧ ∃ k : Nat, k ≤ n ∧ Sys2Proof.core.run k s = .next t)

/-- R199: the status codes; no two reasons share one and 7 is never produced. -/
def Obligations.StatusCodes : Prop :=
  haltCode .none = 0 ∧ haltCode .halt = 1 ∧ haltCode .divideByZero = 2 ∧ haltCode .stackOverflow = 3 ∧
  haltCode .stackUnderflow = 4 ∧ haltCode .unimplementedInstruction = 5 ∧ haltCode .fetchOutOfRange = 6 ∧
  (∀ s : State, s.status = (s.running, haltCode s.reason)) ∧
  (∀ r r' : StopReason, haltCode r = haltCode r' → r = r') ∧ (∀ r : StopReason, haltCode r ≠ 7)
end

