-- ==== Sys2Proof/Laws/Encode.lean ====
section
/-!
SUPPORT. The value of an encoded word, as arithmetic on its four fields.
-/

namespace Sys2Proof

/-- R53: the word's value, each field in its place. -/
theorem encodeFields_toNat (op r1 r2 imm : Nat) :
    (encodeFields op r1 r2 imm).toNat =
      (((op % 16) * 8 + r1 % 8) * 8 + r2 % 8) * 64 + imm % 64 := by
  have h1 : ∀ a b k, b < 2 ^ k → a <<< k ||| b = a * 2 ^ k + b := fun a b k hb => by
    rw [← Nat.shiftLeft_add_eq_or_of_lt hb, Nat.shiftLeft_eq]
  simp only [encodeFields, BitVec.toNat_append, BitVec.toNat_ofNat]
  rw [h1 _ _ 3 (by omega), h1 _ _ 3 (by omega), h1 _ _ 6 (by omega)]
  norm_num

theorem packWord_toNat (op : BitVec 4) (f : Fields) :
    (packWord op f).toNat =
      ((op.toNat * 8 + f.reg1.toNat) * 8 + f.reg2.toNat) * 64 + f.imm.toNat := by
  have ho := op.isLt
  have h1 := f.reg1.isLt
  have h2 := f.reg2.isLt
  have h3 := f.imm.isLt
  rw [packWord, encodeFields_toNat]
  omega

end Sys2Proof
end

