-- ==== Sys2Proof/Laws/Memory.lean ====
section
/-!
SUPPORT. The memory's own laws: reading after writing, the canonical form and that every operation keeps it, and that
in canonical form equal contents are equal lists.
-/

namespace Sys2Proof.Machine

@[simp] theorem Memory.get_nil (a : Nat) : Memory.get [] a = Memory.unlisted := rfl

theorem Memory.get_cons (b : Nat) (w : Word) (m : Memory) (a : Nat) :
    Memory.get ((b, w) :: m) a = if a = b then w else Memory.get m a := rfl

theorem Memory.wfFrom_cons {lo b : Nat} {w : Word} {m : Memory} :
    Memory.wfFrom lo ((b, w) :: m) = true ↔
      lo ≤ b ∧ b < Config.memWords ∧ w ≠ Memory.unlisted ∧ Memory.wfFrom (b + 1) m = true := by
  simp [Memory.wfFrom, and_assoc]

theorem Memory.wfFrom_mono {lo lo' : Nat} {m : Memory} (hl : lo' ≤ lo) (h : Memory.wfFrom lo m = true) :
    Memory.wfFrom lo' m = true := by
  cases m with
  | nil => rfl
  | cons p m =>
    rw [Memory.wfFrom_cons] at h ⊢
    exact ⟨hl.trans h.1, h.2⟩

/-- Below its first address a canonical list holds nothing. -/
theorem Memory.get_below {lo a : Nat} {m : Memory} (h : Memory.wfFrom lo m = true) (ha : a < lo) :
    Memory.get m a = Memory.unlisted := by
  induction m generalizing lo with
  | nil => rfl
  | cons p m ih =>
    obtain ⟨b, w⟩ := p
    obtain ⟨hb, -, -, hm⟩ := Memory.wfFrom_cons.mp h
    rw [Memory.get_cons, if_neg (by omega)]
    exact ih hm (by omega)

/-- Beyond the array a canonical list holds nothing. -/
theorem Memory.get_beyond {lo a : Nat} {m : Memory} (h : Memory.wfFrom lo m = true)
    (ha : Config.memWords ≤ a) : Memory.get m a = Memory.unlisted := by
  induction m generalizing lo with
  | nil => rfl
  | cons p m ih =>
    obtain ⟨b, w⟩ := p
    obtain ⟨-, hb, -, hm⟩ := Memory.wfFrom_cons.mp h
    rw [Memory.get_cons, if_neg (by omega)]
    exact ih hm

/-- A write keeps the canonical form. -/
theorem Memory.wfFrom_set {lo a : Nat} {m : Memory} (v : Word) (h : Memory.wfFrom lo m = true)
    (hlo : lo ≤ a) (ha : a < Config.memWords) : Memory.wfFrom lo (Memory.set m a v) = true := by
  induction m generalizing lo with
  | nil =>
    by_cases hv : v = Memory.unlisted
    · simp [Memory.set, hv, Memory.wfFrom]
    · simp [Memory.set, hv, Memory.wfFrom, hlo, ha]
  | cons p m ih =>
    obtain ⟨b, w⟩ := p
    have h0 := h
    obtain ⟨hb, hbm, hw, hm⟩ := Memory.wfFrom_cons.mp h
    unfold Memory.set
    split_ifs with hab hv hEq hv
    · exact h0
    · exact Memory.wfFrom_cons.mpr ⟨hlo, ha, hv, Memory.wfFrom_cons.mpr ⟨hab, hbm, hw, hm⟩⟩
    · exact Memory.wfFrom_mono (by omega) hm
    · subst hEq
      exact Memory.wfFrom_cons.mpr ⟨hb, ha, hv, hm⟩
    · exact Memory.wfFrom_cons.mpr ⟨hb, hbm, hw, ih hm (by omega)⟩

/-- A write below 400 keeps the canonical form. -/
theorem Memory.wf_set {a : Nat} {m : Memory} (v : Word) (h : m.wf = true) (ha : a < Config.memWords) :
    (m.set a v).wf = true :=
  Memory.wfFrom_set v h (Nat.zero_le a) ha

/-- Reading after writing, from a canonical list. -/
theorem Memory.getFrom_set {lo a : Nat} {m : Memory} (v : Word) (c : Nat)
    (h : Memory.wfFrom lo m = true) :
    Memory.get (Memory.set m a v) c = if c = a then v else Memory.get m c := by
  induction m generalizing lo with
  | nil => by_cases hv : v = Memory.unlisted <;> by_cases hc : c = a <;> simp [Memory.set, hv, hc, Memory.get]
  | cons p m ih =>
    obtain ⟨b, w⟩ := p
    obtain ⟨-, -, -, hm⟩ := Memory.wfFrom_cons.mp h
    unfold Memory.set
    split_ifs with hab hv hc hc hEq hv hc hc hc
    · rw [Memory.get_below (lo := b) (Memory.wfFrom_cons.mpr ⟨le_refl b, (Memory.wfFrom_cons.mp h).2⟩) (by omega), hv]
    · rfl
    · simp [Memory.get_cons, hc]
    · rw [Memory.get_cons, if_neg hc]
    · rw [Memory.get_below hm (by omega), hv]
    · simp [Memory.get_cons, show c ≠ b by omega]
    · simp [Memory.get_cons, hc]
    · simp [Memory.get_cons, hc, show c ≠ b by omega]
    · rw [Memory.get_cons, if_neg (by omega), ih hm, if_pos hc]
    · simp [Memory.get_cons, ih hm, hc]

/-- Reading after writing. -/
theorem Memory.get_set {a : Nat} {m : Memory} (v : Word) (c : Nat) (h : m.wf = true) :
    (m.set a v).get c = if c = a then v else m.get c :=
  Memory.getFrom_set v c h

/-- The empty memory is in canonical form. -/
theorem Memory.wf_nil : Memory.wf [] = true := rfl

theorem Memory.ext_of_wfFrom {lo : Nat} {m n : Memory} (hm : Memory.wfFrom lo m = true)
    (hn : Memory.wfFrom lo n = true) (h : ∀ a, Memory.get m a = Memory.get n a) : m = n := by
  induction m generalizing lo n with
  | nil =>
    cases n with
    | nil => rfl
    | cons q n =>
      obtain ⟨c, u⟩ := q
      obtain ⟨-, -, hu, -⟩ := Memory.wfFrom_cons.mp hn
      exact absurd (by simpa [Memory.get_cons] using (h c).symm) hu
  | cons p m ih =>
    obtain ⟨b, w⟩ := p
    obtain ⟨hb, -, hw, hm'⟩ := Memory.wfFrom_cons.mp hm
    cases n with
    | nil => exact absurd (by simpa [Memory.get_cons] using h b) hw
    | cons q n =>
      obtain ⟨c, u⟩ := q
      obtain ⟨hc, -, hu, hn'⟩ := Memory.wfFrom_cons.mp hn
      have hbc : b = c := by
        rcases lt_trichotomy b c with hlt | heq | hgt
        · have := h b
          rw [Memory.get_cons, if_pos rfl, Memory.get_cons, if_neg (by omega),
            Memory.get_below hn' (by omega)] at this
          exact absurd this hw
        · exact heq
        · have := (h c).symm
          rw [Memory.get_cons, if_pos rfl, Memory.get_cons, if_neg (by omega),
            Memory.get_below hm' (by omega)] at this
          exact absurd this hu
      subst hbc
      have hwu : w = u := by simpa [Memory.get_cons] using h b
      subst hwu
      refine congrArg _ (ih hm' hn' fun a => ?_)
      by_cases ha : a = b
      · subst ha
        rw [Memory.get_below hm' (by omega), Memory.get_below hn' (by omega)]
      · simpa [Memory.get_cons, ha] using h a

/-- In canonical form, equal contents are equal lists. -/
theorem Memory.ext_of_wf {m n : Memory} (hm : m.wf = true) (hn : n.wf = true)
    (h : ∀ a, m.get a = n.get a) : m = n :=
  Memory.ext_of_wfFrom hm hn h

end Sys2Proof.Machine
end

