-- ==== Sys2Proof/Laws/State.lean ====
section
/-!
SUPPORT. What each update of the state does to each field: one lemma per field per update, each true by `rfl`, and
the register read after each update. With these no proof unfolds a record update.
-/

namespace Sys2Proof

@[simp] theorem Config.memWords_eq : Config.memWords = 400 := rfl
@[simp] theorem Config.spInit_eq : Config.spInit = 399#16 := rfl
@[simp] theorem Config.portAddr_eq : Config.portAddr = 32 := rfl

end Sys2Proof

namespace Sys2Proof.Machine

variable (s : State)

/-! ## The register file -/

theorem State.reg_eq (i : RegNum) : s.reg i = s.regs[i.toNat]'i.isLt := rfl

@[simp] theorem State.reg_setReg (i j : RegNum) (v : Word) :
    (s.setReg i v).reg j = if j = i then v else s.reg j := by
  simp only [State.reg, State.setReg, Vector.getElem_set, BitVec.toNat_eq, eq_comm]

theorem State.reg_setReg_same (i : RegNum) (v : Word) : (s.setReg i v).reg i = v := by simp

theorem State.reg_setReg_ne (i j : RegNum) (v : Word) (h : j ≠ i) :
    (s.setReg i v).reg j = s.reg j := by simp [h]

/-! ## setReg -/

@[simp] theorem State.setReg_regs (i : RegNum) (v : Word) : (s.setReg i v).regs = s.regs.set i.toNat v i.isLt := rfl
@[simp] theorem State.setReg_ip (i : RegNum) (v : Word) : (s.setReg i v).ip = s.ip := rfl
@[simp] theorem State.setReg_sp (i : RegNum) (v : Word) : (s.setReg i v).sp = s.sp := rfl
@[simp] theorem State.setReg_flags (i : RegNum) (v : Word) : (s.setReg i v).flags = s.flags := rfl
@[simp] theorem State.setReg_running (i : RegNum) (v : Word) : (s.setReg i v).running = s.running := rfl
@[simp] theorem State.setReg_reason (i : RegNum) (v : Word) : (s.setReg i v).reason = s.reason := rfl
@[simp] theorem State.setReg_depth (i : RegNum) (v : Word) : (s.setReg i v).depth = s.depth := rfl
@[simp] theorem State.setReg_mem (i : RegNum) (v : Word) : (s.setReg i v).mem = s.mem := rfl
@[simp] theorem State.setReg_out (i : RegNum) (v : Word) : (s.setReg i v).out = s.out := rfl
@[simp] theorem State.setReg_alu (i : RegNum) (v : Word) : (s.setReg i v).alu = s.alu := rfl
@[simp] theorem State.setReg_depthBits (i : RegNum) (v : Word) : (s.setReg i v).depthBits = s.depthBits := rfl

/-! ## setFlags -/

@[simp] theorem State.setFlags_regs (fl : Flags) : (s.setFlags fl).regs = s.regs := rfl
@[simp] theorem State.setFlags_ip (fl : Flags) : (s.setFlags fl).ip = s.ip := rfl
@[simp] theorem State.setFlags_sp (fl : Flags) : (s.setFlags fl).sp = s.sp := rfl
@[simp] theorem State.setFlags_flags (fl : Flags) : (s.setFlags fl).flags = fl := rfl
@[simp] theorem State.setFlags_running (fl : Flags) : (s.setFlags fl).running = s.running := rfl
@[simp] theorem State.setFlags_reason (fl : Flags) : (s.setFlags fl).reason = s.reason := rfl
@[simp] theorem State.setFlags_depth (fl : Flags) : (s.setFlags fl).depth = s.depth := rfl
@[simp] theorem State.setFlags_mem (fl : Flags) : (s.setFlags fl).mem = s.mem := rfl
@[simp] theorem State.setFlags_out (fl : Flags) : (s.setFlags fl).out = s.out := rfl
@[simp] theorem State.setFlags_alu (fl : Flags) : (s.setFlags fl).alu = s.alu := rfl
@[simp] theorem State.setFlags_depthBits (fl : Flags) : (s.setFlags fl).depthBits = s.depthBits := rfl
@[simp] theorem State.reg_setFlags (fl : Flags) (j : RegNum) : (s.setFlags fl).reg j = s.reg j := rfl

/-! ## setIp -/

@[simp] theorem State.setIp_regs (t : Word) : (s.setIp t).regs = s.regs := rfl
@[simp] theorem State.setIp_ip (t : Word) : (s.setIp t).ip = t := rfl
@[simp] theorem State.setIp_sp (t : Word) : (s.setIp t).sp = s.sp := rfl
@[simp] theorem State.setIp_flags (t : Word) : (s.setIp t).flags = s.flags := rfl
@[simp] theorem State.setIp_running (t : Word) : (s.setIp t).running = s.running := rfl
@[simp] theorem State.setIp_reason (t : Word) : (s.setIp t).reason = s.reason := rfl
@[simp] theorem State.setIp_depth (t : Word) : (s.setIp t).depth = s.depth := rfl
@[simp] theorem State.setIp_mem (t : Word) : (s.setIp t).mem = s.mem := rfl
@[simp] theorem State.setIp_out (t : Word) : (s.setIp t).out = s.out := rfl
@[simp] theorem State.setIp_alu (t : Word) : (s.setIp t).alu = s.alu := rfl
@[simp] theorem State.setIp_depthBits (t : Word) : (s.setIp t).depthBits = s.depthBits := rfl
@[simp] theorem State.reg_setIp (t : Word) (j : RegNum) : (s.setIp t).reg j = s.reg j := rfl

/-! ## advance -/

@[simp] theorem State.advance_regs : (s.advance).regs = s.regs := rfl
@[simp] theorem State.advance_ip : (s.advance).ip = s.ip + 1 := rfl
@[simp] theorem State.advance_sp : (s.advance).sp = s.sp := rfl
@[simp] theorem State.advance_flags : (s.advance).flags = s.flags := rfl
@[simp] theorem State.advance_running : (s.advance).running = s.running := rfl
@[simp] theorem State.advance_reason : (s.advance).reason = s.reason := rfl
@[simp] theorem State.advance_depth : (s.advance).depth = s.depth := rfl
@[simp] theorem State.advance_mem : (s.advance).mem = s.mem := rfl
@[simp] theorem State.advance_out : (s.advance).out = s.out := rfl
@[simp] theorem State.advance_alu : (s.advance).alu = s.alu := rfl
@[simp] theorem State.advance_depthBits : (s.advance).depthBits = s.depthBits := rfl
@[simp] theorem State.reg_advance (j : RegNum) : (s.advance).reg j = s.reg j := rfl

/-! ## raise -/

@[simp] theorem State.raise_regs (r : StopReason) : (s.raise r).regs = s.regs := rfl
@[simp] theorem State.raise_ip (r : StopReason) : (s.raise r).ip = s.ip := rfl
@[simp] theorem State.raise_sp (r : StopReason) : (s.raise r).sp = s.sp := rfl
@[simp] theorem State.raise_flags (r : StopReason) : (s.raise r).flags = s.flags := rfl
@[simp] theorem State.raise_running (r : StopReason) : (s.raise r).running = false := rfl
@[simp] theorem State.raise_reason (r : StopReason) : (s.raise r).reason = r := rfl
@[simp] theorem State.raise_depth (r : StopReason) : (s.raise r).depth = s.depth := rfl
@[simp] theorem State.raise_mem (r : StopReason) : (s.raise r).mem = s.mem := rfl
@[simp] theorem State.raise_out (r : StopReason) : (s.raise r).out = s.out := rfl
@[simp] theorem State.raise_alu (r : StopReason) : (s.raise r).alu = s.alu := rfl
@[simp] theorem State.raise_depthBits (r : StopReason) : (s.raise r).depthBits = s.depthBits := rfl
@[simp] theorem State.reg_raise (r : StopReason) (j : RegNum) : (s.raise r).reg j = s.reg j := rfl

/-! ## countCall -/

@[simp] theorem State.countCall_regs : (s.countCall).regs = s.regs := rfl
@[simp] theorem State.countCall_ip : (s.countCall).ip = s.ip := rfl
@[simp] theorem State.countCall_sp : (s.countCall).sp = s.sp := rfl
@[simp] theorem State.countCall_flags : (s.countCall).flags = s.flags := rfl
@[simp] theorem State.countCall_running : (s.countCall).running = s.running := rfl
@[simp] theorem State.countCall_reason : (s.countCall).reason = s.reason := rfl
@[simp] theorem State.countCall_depth : (s.countCall).depth = (s.depth + 1) % 2 ^ s.depthBits := rfl
@[simp] theorem State.countCall_mem : (s.countCall).mem = s.mem := rfl
@[simp] theorem State.countCall_out : (s.countCall).out = s.out := rfl
@[simp] theorem State.countCall_alu : (s.countCall).alu = s.alu := rfl
@[simp] theorem State.countCall_depthBits : (s.countCall).depthBits = s.depthBits := rfl
@[simp] theorem State.reg_countCall (j : RegNum) : (s.countCall).reg j = s.reg j := rfl

/-! ## aluObserve -/

@[simp] theorem State.aluObserve_regs (o : AluOutputs) : (s.aluObserve o).regs = s.regs := rfl
@[simp] theorem State.aluObserve_ip (o : AluOutputs) : (s.aluObserve o).ip = s.ip := rfl
@[simp] theorem State.aluObserve_sp (o : AluOutputs) : (s.aluObserve o).sp = s.sp := rfl
@[simp] theorem State.aluObserve_flags (o : AluOutputs) : (s.aluObserve o).flags = s.flags := rfl
@[simp] theorem State.aluObserve_running (o : AluOutputs) : (s.aluObserve o).running = s.running := rfl
@[simp] theorem State.aluObserve_reason (o : AluOutputs) : (s.aluObserve o).reason = s.reason := rfl
@[simp] theorem State.aluObserve_depth (o : AluOutputs) : (s.aluObserve o).depth = s.depth := rfl
@[simp] theorem State.aluObserve_mem (o : AluOutputs) : (s.aluObserve o).mem = s.mem := rfl
@[simp] theorem State.aluObserve_out (o : AluOutputs) : (s.aluObserve o).out = s.out := rfl
@[simp] theorem State.aluObserve_alu (o : AluOutputs) : (s.aluObserve o).alu = { s.alu with out := o } := rfl
@[simp] theorem State.aluObserve_depthBits (o : AluOutputs) : (s.aluObserve o).depthBits = s.depthBits := rfl
@[simp] theorem State.reg_aluObserve (o : AluOutputs) (j : RegNum) : (s.aluObserve o).reg j = s.reg j := rfl

/-! ## aluRelease -/

@[simp] theorem State.aluRelease_regs : (s.aluRelease).regs = s.regs := rfl
@[simp] theorem State.aluRelease_ip : (s.aluRelease).ip = s.ip := rfl
@[simp] theorem State.aluRelease_sp : (s.aluRelease).sp = s.sp := rfl
@[simp] theorem State.aluRelease_flags : (s.aluRelease).flags = s.flags := rfl
@[simp] theorem State.aluRelease_running : (s.aluRelease).running = s.running := rfl
@[simp] theorem State.aluRelease_reason : (s.aluRelease).reason = s.reason := rfl
@[simp] theorem State.aluRelease_depth : (s.aluRelease).depth = s.depth := rfl
@[simp] theorem State.aluRelease_mem : (s.aluRelease).mem = s.mem := rfl
@[simp] theorem State.aluRelease_out : (s.aluRelease).out = s.out := rfl
@[simp] theorem State.aluRelease_alu : (s.aluRelease).alu = { s.alu with drive := none } := rfl
@[simp] theorem State.aluRelease_depthBits : (s.aluRelease).depthBits = s.depthBits := rfl
@[simp] theorem State.reg_aluRelease (j : RegNum) : (s.aluRelease).reg j = s.reg j := rfl

/-! ## aluPresent -/

@[simp] theorem State.aluPresent_regs (x y : Word) (d : AluCode) : (s.aluPresent x y d).regs = s.regs := rfl
@[simp] theorem State.aluPresent_ip (x y : Word) (d : AluCode) : (s.aluPresent x y d).ip = s.ip := rfl
@[simp] theorem State.aluPresent_sp (x y : Word) (d : AluCode) : (s.aluPresent x y d).sp = s.sp := rfl
@[simp] theorem State.aluPresent_flags (x y : Word) (d : AluCode) : (s.aluPresent x y d).flags = s.flags := rfl
@[simp] theorem State.aluPresent_running (x y : Word) (d : AluCode) : (s.aluPresent x y d).running = s.running := rfl
@[simp] theorem State.aluPresent_reason (x y : Word) (d : AluCode) : (s.aluPresent x y d).reason = s.reason := rfl
@[simp] theorem State.aluPresent_depth (x y : Word) (d : AluCode) : (s.aluPresent x y d).depth = s.depth := rfl
@[simp] theorem State.aluPresent_mem (x y : Word) (d : AluCode) : (s.aluPresent x y d).mem = s.mem := rfl
@[simp] theorem State.aluPresent_out (x y : Word) (d : AluCode) : (s.aluPresent x y d).out = s.out := rfl
@[simp] theorem State.aluPresent_alu (x y : Word) (d : AluCode) : (s.aluPresent x y d).alu = { s.alu with x := x, y := y, drive := some d } := rfl
@[simp] theorem State.aluPresent_depthBits (x y : Word) (d : AluCode) : (s.aluPresent x y d).depthBits = s.depthBits := rfl
@[simp] theorem State.reg_aluPresent (x y : Word) (d : AluCode) (j : RegNum) : (s.aluPresent x y d).reg j = s.reg j := rfl

/-! ## bypassAlu -/

@[simp] theorem State.bypassAlu_regs (dst : RegNum) (r : Word) : (s.bypassAlu dst r).regs = s.regs.set dst.toNat r dst.isLt := rfl
@[simp] theorem State.bypassAlu_ip (dst : RegNum) (r : Word) : (s.bypassAlu dst r).ip = s.ip := rfl
@[simp] theorem State.bypassAlu_sp (dst : RegNum) (r : Word) : (s.bypassAlu dst r).sp = s.sp := rfl
@[simp] theorem State.bypassAlu_flags (dst : RegNum) (r : Word) : (s.bypassAlu dst r).flags = logicFlags s.flags r := rfl
@[simp] theorem State.bypassAlu_running (dst : RegNum) (r : Word) : (s.bypassAlu dst r).running = s.running := rfl
@[simp] theorem State.bypassAlu_reason (dst : RegNum) (r : Word) : (s.bypassAlu dst r).reason = s.reason := rfl
@[simp] theorem State.bypassAlu_depth (dst : RegNum) (r : Word) : (s.bypassAlu dst r).depth = s.depth := rfl
@[simp] theorem State.bypassAlu_mem (dst : RegNum) (r : Word) : (s.bypassAlu dst r).mem = s.mem := rfl
@[simp] theorem State.bypassAlu_out (dst : RegNum) (r : Word) : (s.bypassAlu dst r).out = s.out := rfl
@[simp] theorem State.bypassAlu_alu (dst : RegNum) (r : Word) : (s.bypassAlu dst r).alu = s.alu := rfl
@[simp] theorem State.bypassAlu_depthBits (dst : RegNum) (r : Word) : (s.bypassAlu dst r).depthBits = s.depthBits := rfl
@[simp] theorem State.reg_bypassAlu (dst : RegNum) (r : Word) (j : RegNum) :
    (s.bypassAlu dst r).reg j = if j = dst then r else s.reg j := s.reg_setReg dst j _

/-! ## throughAlu -/

@[simp] theorem State.throughAlu_regs (g : AluFn) (dst : RegNum) (x y : Word) : (s.throughAlu g dst x y).regs = s.regs.set dst.toNat (aluCompute x y (aluCode g)).out dst.isLt := rfl
@[simp] theorem State.throughAlu_ip (g : AluFn) (dst : RegNum) (x y : Word) : (s.throughAlu g dst x y).ip = s.ip := rfl
@[simp] theorem State.throughAlu_sp (g : AluFn) (dst : RegNum) (x y : Word) : (s.throughAlu g dst x y).sp = s.sp := rfl
@[simp] theorem State.throughAlu_flags (g : AluFn) (dst : RegNum) (x y : Word) : (s.throughAlu g dst x y).flags = (aluCompute x y (aluCode g)).flags := rfl
@[simp] theorem State.throughAlu_running (g : AluFn) (dst : RegNum) (x y : Word) : (s.throughAlu g dst x y).running = s.running := rfl
@[simp] theorem State.throughAlu_reason (g : AluFn) (dst : RegNum) (x y : Word) : (s.throughAlu g dst x y).reason = s.reason := rfl
@[simp] theorem State.throughAlu_depth (g : AluFn) (dst : RegNum) (x y : Word) : (s.throughAlu g dst x y).depth = s.depth := rfl
@[simp] theorem State.throughAlu_mem (g : AluFn) (dst : RegNum) (x y : Word) : (s.throughAlu g dst x y).mem = s.mem := rfl
@[simp] theorem State.throughAlu_out (g : AluFn) (dst : RegNum) (x y : Word) : (s.throughAlu g dst x y).out = s.out := rfl
@[simp] theorem State.throughAlu_alu (g : AluFn) (dst : RegNum) (x y : Word) : (s.throughAlu g dst x y).alu = s.alu := rfl
@[simp] theorem State.throughAlu_depthBits (g : AluFn) (dst : RegNum) (x y : Word) : (s.throughAlu g dst x y).depthBits = s.depthBits := rfl
@[simp] theorem State.reg_throughAlu (g : AluFn) (dst : RegNum) (x y : Word) (j : RegNum) :
    (s.throughAlu g dst x y).reg j = if j = dst then (aluCompute x y (aluCode g)).out else s.reg j := s.reg_setReg dst j _

/-! ## aluAnswer -/

@[simp] theorem State.aluAnswer_regs (g : Word → Word → AluOutputs) : (s.aluAnswer g).regs = s.regs := rfl
@[simp] theorem State.aluAnswer_ip (g : Word → Word → AluOutputs) : (s.aluAnswer g).ip = s.ip := rfl
@[simp] theorem State.aluAnswer_sp (g : Word → Word → AluOutputs) : (s.aluAnswer g).sp = s.sp := rfl
@[simp] theorem State.aluAnswer_flags (g : Word → Word → AluOutputs) : (s.aluAnswer g).flags = s.flags := rfl
@[simp] theorem State.aluAnswer_running (g : Word → Word → AluOutputs) : (s.aluAnswer g).running = s.running := rfl
@[simp] theorem State.aluAnswer_reason (g : Word → Word → AluOutputs) : (s.aluAnswer g).reason = s.reason := rfl
@[simp] theorem State.aluAnswer_depth (g : Word → Word → AluOutputs) : (s.aluAnswer g).depth = s.depth := rfl
@[simp] theorem State.aluAnswer_mem (g : Word → Word → AluOutputs) : (s.aluAnswer g).mem = s.mem := rfl
@[simp] theorem State.aluAnswer_out (g : Word → Word → AluOutputs) : (s.aluAnswer g).out = s.out := rfl
@[simp] theorem State.aluAnswer_alu (g : Word → Word → AluOutputs) : (s.aluAnswer g).alu = { s.alu with out := g s.alu.x s.alu.y } := rfl
@[simp] theorem State.aluAnswer_depthBits (g : Word → Word → AluOutputs) : (s.aluAnswer g).depthBits = s.depthBits := rfl
@[simp] theorem State.reg_aluAnswer (g : Word → Word → AluOutputs) (j : RegNum) : (s.aluAnswer g).reg j = s.reg j := rfl

/-! ## aluReportUndefined -/

@[simp] theorem State.aluReportUndefined_regs (d : AluCode) : (s.aluReportUndefined d).regs = s.regs := rfl
@[simp] theorem State.aluReportUndefined_ip (d : AluCode) : (s.aluReportUndefined d).ip = s.ip := rfl
@[simp] theorem State.aluReportUndefined_sp (d : AluCode) : (s.aluReportUndefined d).sp = s.sp := rfl
@[simp] theorem State.aluReportUndefined_flags (d : AluCode) : (s.aluReportUndefined d).flags = s.flags := rfl
@[simp] theorem State.aluReportUndefined_running (d : AluCode) : (s.aluReportUndefined d).running = s.running := rfl
@[simp] theorem State.aluReportUndefined_reason (d : AluCode) : (s.aluReportUndefined d).reason = s.reason := rfl
@[simp] theorem State.aluReportUndefined_depth (d : AluCode) : (s.aluReportUndefined d).depth = s.depth := rfl
@[simp] theorem State.aluReportUndefined_mem (d : AluCode) : (s.aluReportUndefined d).mem = s.mem := rfl
@[simp] theorem State.aluReportUndefined_out (d : AluCode) : (s.aluReportUndefined d).out = s.out := rfl
@[simp] theorem State.aluReportUndefined_alu (d : AluCode) : (s.aluReportUndefined d).alu = { s.alu with out := aluUndefined s.alu.x s.alu.y d } := rfl
@[simp] theorem State.aluReportUndefined_depthBits (d : AluCode) : (s.aluReportUndefined d).depthBits = s.depthBits := rfl
@[simp] theorem State.reg_aluReportUndefined (d : AluCode) (j : RegNum) : (s.aluReportUndefined d).reg j = s.reg j := rfl

/-! ## emit and memWrite -/

@[simp] theorem State.emit_regs (a v : Word) : (s.emit a v).regs = s.regs := by
  unfold State.emit
  split <;> rfl
@[simp] theorem State.emit_ip (a v : Word) : (s.emit a v).ip = s.ip := by
  unfold State.emit
  split <;> rfl
@[simp] theorem State.emit_sp (a v : Word) : (s.emit a v).sp = s.sp := by
  unfold State.emit
  split <;> rfl
@[simp] theorem State.emit_flags (a v : Word) : (s.emit a v).flags = s.flags := by
  unfold State.emit
  split <;> rfl
@[simp] theorem State.emit_running (a v : Word) : (s.emit a v).running = s.running := by
  unfold State.emit
  split <;> rfl
@[simp] theorem State.emit_reason (a v : Word) : (s.emit a v).reason = s.reason := by
  unfold State.emit
  split <;> rfl
@[simp] theorem State.emit_depth (a v : Word) : (s.emit a v).depth = s.depth := by
  unfold State.emit
  split <;> rfl
@[simp] theorem State.emit_alu (a v : Word) : (s.emit a v).alu = s.alu := by
  unfold State.emit
  split <;> rfl
@[simp] theorem State.emit_depthBits (a v : Word) : (s.emit a v).depthBits = s.depthBits := by
  unfold State.emit
  split <;> rfl
@[simp] theorem State.emit_mem (a v : Word) : (s.emit a v).mem = s.mem := by
  unfold State.emit
  split <;> rfl

theorem State.emit_out (a v : Word) :
    (s.emit a v).out = if a.toNat = Config.portAddr then s.out ++ [v.extractLsb' 0 8] else s.out := by
  unfold State.emit
  split <;> rfl

@[simp] theorem State.memWrite_regs (a v : Word) : (s.memWrite a v).regs = s.regs := by
  unfold State.memWrite
  split <;> simp
@[simp] theorem State.memWrite_ip (a v : Word) : (s.memWrite a v).ip = s.ip := by
  unfold State.memWrite
  split <;> simp
@[simp] theorem State.memWrite_sp (a v : Word) : (s.memWrite a v).sp = s.sp := by
  unfold State.memWrite
  split <;> simp
@[simp] theorem State.memWrite_flags (a v : Word) : (s.memWrite a v).flags = s.flags := by
  unfold State.memWrite
  split <;> simp
@[simp] theorem State.memWrite_running (a v : Word) : (s.memWrite a v).running = s.running := by
  unfold State.memWrite
  split <;> simp
@[simp] theorem State.memWrite_reason (a v : Word) : (s.memWrite a v).reason = s.reason := by
  unfold State.memWrite
  split <;> simp
@[simp] theorem State.memWrite_depth (a v : Word) : (s.memWrite a v).depth = s.depth := by
  unfold State.memWrite
  split <;> simp
@[simp] theorem State.memWrite_alu (a v : Word) : (s.memWrite a v).alu = s.alu := by
  unfold State.memWrite
  split <;> simp
@[simp] theorem State.memWrite_depthBits (a v : Word) : (s.memWrite a v).depthBits = s.depthBits := by
  unfold State.memWrite
  split <;> simp
@[simp] theorem State.memWrite_out (a v : Word) : (s.memWrite a v).out = (s.emit a v).out := by
  unfold State.memWrite
  split <;> rfl

@[simp] theorem State.memWrite_mem (a v : Word) :
    (s.memWrite a v).mem = if a.toNat < Config.memWords then s.mem.set a.toNat v else s.mem := by
  unfold State.memWrite
  split <;> simp

@[simp] theorem State.reg_memWrite (a v : Word) (j : RegNum) : (s.memWrite a v).reg j = s.reg j := by
  simp [State.reg]

end Sys2Proof.Machine
end

