-- ==== Sys2Proof/Laws/Ops.lean ====
section
/-!
SUPPORT. One lemma per shared operation that says everything it can do; the provers cite these instead of unfolding.
-/

namespace Sys2Proof.Machine

variable {s t : State}

/-! ## Direct accesses and the stack -/

theorem State.directRead_ok {a v : Word} :
    s.directRead a = .ok v ↔ a.toNat < 400 ∧ v = s.mem.get a.toNat := by
  unfold State.directRead Config.memWords
  split <;> simp [*, eq_comm]

theorem State.directWrite_ok {a v : Word} :
    s.directWrite a v = .ok t ↔ a.toNat < 400 ∧ t = { s with mem := s.mem.set a.toNat v } := by
  unfold State.directWrite Config.memWords
  split <;> simp [*, eq_comm]

theorem State.push_ok {v : Word} :
    s.push v = .ok t ↔
      s.sp.toNat < 400 ∧ t = { s with mem := s.mem.set s.sp.toNat v, sp := s.sp - 1 } := by
  unfold State.push State.directWrite Config.memWords
  split_ifs with h <;> simp [h, eq_comm]

theorem State.pop_ok {v : Word} :
    s.pop = .ok (v, t) ↔
      (s.sp + 1).toNat < 400 ∧ v = s.mem.get (s.sp + 1).toNat ∧ t = { s with sp := s.sp + 1 } := by
  unfold State.pop State.directRead Config.memWords
  generalize s.sp + 1 = p
  split_ifs with h <;> simp [h, eq_comm]

theorem State.fetchWord_some {w : Word} :
    s.fetchWord = some w ↔ s.ip.toNat < 400 ∧ s.mem.get s.ip.toNat = w := by
  unfold State.fetchWord State.directRead Config.memWords
  split_ifs with h <;> simp [h, Except.toOption]

theorem State.fetchWord_none : s.fetchWord = none ↔ 400 ≤ s.ip.toNat := by
  unfold State.fetchWord State.directRead Config.memWords
  split_ifs with h <;> simp [Except.toOption] <;> omega

/-! ## Every memory operation keeps the canonical form -/

theorem State.wf_memWrite (a v : Word) (h : s.mem.wf = true) : (s.memWrite a v).mem.wf = true := by
  rw [State.memWrite_mem]
  split_ifs with ha
  · exact Memory.wf_set v h ha
  · exact h

theorem State.wf_directWrite {a v : Word} (h : s.mem.wf = true) (hw : s.directWrite a v = .ok t) :
    t.mem.wf = true := by
  obtain ⟨ha, rfl⟩ := State.directWrite_ok.mp hw
  exact Memory.wf_set v h ha

theorem State.wf_push {v : Word} (h : s.mem.wf = true) (hp : s.push v = .ok t) : t.mem.wf = true := by
  obtain ⟨ha, rfl⟩ := State.push_ok.mp hp
  exact Memory.wf_set v h ha

theorem Memory.wf_fill {m : Memory} {a : Nat} {ws : List Word} (h : m.wf = true)
    (ha : a + ws.length ≤ Config.memWords) : (Memory.fill m a ws).wf = true := by
  induction ws generalizing m a with
  | nil => exact h
  | cons w ws ih =>
    simp only [List.length_cons] at ha
    exact ih (Memory.wf_set w h (by omega)) (by omega)

theorem State.reset_wf : State.reset.mem.wf = true := rfl

/-! ## The instructions that have more than one outcome -/

theorem execJz_eq (f : Fields) :
    execJz f s = .next (if s.flags.zr then s.setIp (immWord f) else s) := by
  unfold execJz
  split <;> rfl

theorem execDiv_eq (f : Fields) :
    execDiv f s = .next (if (s.operand2 f).toNat = 0 then s.raise .divideByZero
      else s.bypassAlu f.reg1 (BitVec.ofNat 16 ((s.operand1 f).toNat / (s.operand2 f).toNat))) := by
  unfold execDiv
  split <;> rfl

theorem execCall_next (f : Fields) :
    execCall f s = .next t ↔
      (s.sp.toNat = 0 ∧ t = s.raise .stackOverflow) ∨
      (s.sp.toNat ≠ 0 ∧ s.sp.toNat < 400 ∧
        t = { s with
              mem := s.mem.set s.sp.toNat s.ip, sp := s.sp - 1, ip := immWord f,
              depth := (s.depth + 1) % 2 ^ s.depthBits }) := by
  unfold execCall State.push State.directWrite Config.memWords
  by_cases h0 : s.sp.toNat = 0 <;> by_cases h1 : s.sp.toNat < 400 <;>
    simp [h0, h1, eq_comm, State.setIp, State.countCall]

theorem execRet_next (f : Fields) :
    execRet f s = .next t ↔
      (s.sp = 399#16 ∧ t = s.raise .stackUnderflow) ∨
      (s.sp ≠ 399#16 ∧ (s.sp + 1).toNat < 400 ∧
        t = { s with sp := s.sp + 1, ip := s.mem.get (s.sp + 1).toNat }) := by
  unfold execRet State.pop State.directRead Config.memWords Config.spInit
  generalize s.sp + 1 = p
  by_cases h0 : s.sp = 399#16 <;> by_cases h1 : p.toNat < 400 <;>
    simp [h0, h1, eq_comm (a := t), State.setIp]

/-- When CALL faults, in states with SP of 400 or more only (log entry 7). -/
theorem execCall_fault (f : Fields) {e : Fault} :
    execCall f s = .fault e ↔ 400 ≤ s.sp.toNat ∧ e = .directAccessOutOfRange s.sp := by
  unfold execCall State.push State.directWrite Config.memWords
  by_cases h0 : s.sp.toNat = 0 <;> by_cases h1 : s.sp.toNat < 400 <;>
    simp [h0, h1, eq_comm (a := e)]
  all_goals omega

/-- When RET faults (log entry 7). At SP 399 it has stopped before. -/
theorem execRet_fault (f : Fields) {e : Fault} :
    execRet f s = .fault e ↔
      s.sp ≠ 399#16 ∧ 400 ≤ (s.sp + 1).toNat ∧ e = .directAccessOutOfRange (s.sp + 1) := by
  unfold execRet State.pop State.directRead Config.memWords Config.spInit
  generalize s.sp + 1 = p
  by_cases h0 : s.sp = 399#16 <;> by_cases h1 : p.toNat < 400 <;>
    simp [h0, h1, eq_comm (a := e)]
  all_goals omega

/-! ## The ALU -/

/-- Each function's code selects that function (R73). -/
theorem aluFnOf_aluCode (g : AluFn) : aluFnOf (aluCode g) = some g := by
  cases g <;> decide

theorem aluCompute_aluCode (g : AluFn) (x y : Word) : aluCompute x y (aluCode g) = aluApply g x y := by
  simp [aluCompute, aluFnOf_aluCode]

theorem exec_aluInstr (g : AluFn) : exec (aluInstr g) s = .next (s.aluAnswer (aluApply g)) := by
  cases g <;> rfl

/-! ## The decoder's table -/

/-- Each mnemonic's opcode selects that mnemonic (R55). -/
theorem opcodeOf_opmap (m : Opcode) : opcodeOf (opmap m) = some m := by
  cases m <;> decide

theorem opcodeOf_reserved : opcodeOf reservedOpcode = none := by decide

/-! ## The step -/

/-- Everything a step can do when it answers a next state. -/
theorem step_next_cases (h : step s = .next t) :
    (∃ d g, s.alu.drive = some d ∧ aluFnOf d = some g ∧ t = s.aluRelease.aluAnswer (aluApply g)) ∨
    (∃ d, s.alu.drive = some d ∧ aluFnOf d = none ∧ t = s.aluRelease.aluReportUndefined d) ∨
    (s.alu.drive = none ∧ s.running = false ∧ t = s) ∨
    (s.alu.drive = none ∧ s.running = true ∧ 400 ≤ s.ip.toNat ∧ t = s.raise .fetchOutOfRange) ∨
    (s.alu.drive = none ∧ s.running = true ∧ s.ip.toNat < 400 ∧
      exec (decodeWord (s.mem.get s.ip.toNat)) s.advance = .next t) := by
  unfold step frontEnd at h
  cases hd : s.alu.drive with
  | some d =>
    simp only [hd] at h
    cases hg : aluFnOf d with
    | some g =>
      simp only [aluFront, decode, hg, exec_aluInstr, Host.Outcome.next.injEq] at h
      exact .inl ⟨d, g, rfl, hg, h.symm⟩
    | none =>
      simp only [aluFront, decode, hg, Host.Outcome.next.injEq] at h
      exact .inr (.inl ⟨d, rfl, hg, h.symm⟩)
  | none =>
    simp only [hd] at h
    cases hr : s.running with
    | false =>
      simp only [engineFront, hr, Bool.false_eq_true, ↓reduceIte, Host.Outcome.next.injEq] at h
      exact .inr (.inr (.inl ⟨rfl, rfl, h.symm⟩))
    | true =>
      cases hf : s.fetchWord with
      | none =>
        simp only [engineFront, hr, hf, ↓reduceIte, Host.Outcome.next.injEq] at h
        exact .inr (.inr (.inr (.inl ⟨rfl, rfl, State.fetchWord_none.mp hf, h.symm⟩)))
      | some w =>
        simp only [engineFront, hr, hf, ↓reduceIte] at h
        obtain ⟨hip, rfl⟩ := State.fetchWord_some.mp hf
        exact .inr (.inr (.inr (.inr ⟨rfl, rfl, hip, h⟩)))

end Sys2Proof.Machine
end

