-- ==== Sys2Proof/Laws/PerInstr.lean ====
section
/-!
SUPPORT. Per instruction: the code the encoder writes lies in the instruction's own row of spec/opcode_table.json, that
is, its bits under the row's mask are the row's match.
-/

namespace Sys2Proof.Laws

/-- The row's `match` in spec/opcode_table.json, written out here from the table. -/
def rowMatch (i : Instr) : Nat :=
  match i with
  | .nop _ => 0x0000
  | .mov _ => 0x1000
  | .add _ => 0x2000
  | .sub _ => 0x3000
  | .and _ => 0x4000
  | .or _ => 0x5000
  | .mul _ => 0x6000
  | .div _ => 0x7000
  | .jmp _ => 0x8000
  | .jz _ => 0x9000
  | .call _ => 0xA000
  | .ret _ => 0xB000
  | .halt _ => 0xC000
  | .load _ => 0xD000
  | .store _ => 0xE000
  | .reserved15 _ => 0xF000
  | .aluZero => 0x2A
  | .aluOne => 0x3F
  | .aluMinus1 => 0x3A
  | .aluPassx => 0x0C
  | .aluPassy => 0x30
  | .aluNotx => 0x0D
  | .aluNoty => 0x31
  | .aluNegx => 0x0F
  | .aluNegy => 0x33
  | .aluIncx => 0x1F
  | .aluIncy => 0x37
  | .aluDecx => 0x0E
  | .aluDecy => 0x32
  | .aluAdd => 0x02
  | .aluSubxy => 0x13
  | .aluSubyx => 0x07
  | .aluAnd => 0x00
  | .aluOr => 0x15
  | .aluMul => 0x20
  | .aluDiv => 0x21

/-- The code's bits under its format's mask: 0xF000 for a word of format F, 0x3F for a control code. -/
def maskedBits (c : Code) : Nat :=
  match c with
  | .word w => w.toNat &&& 0xF000
  | .alu6 d => d.toNat &&& 0x3F

/-- The encoder stays in the instruction's row. -/
def TableRow.Statement (i : Instr) : Prop := maskedBits (encode i) = rowMatch i

theorem maskedBits_packWord (op : BitVec 4) (f : Fields) :
    maskedBits (.word (packWord op f)) = op.toNat * 4096 := by
  have h1 := f.reg1.isLt
  have h2 := f.reg2.isLt
  have h3 := f.imm.isLt
  have hm : ∀ n : Nat, n < 2 ^ 16 → n &&& 0xF000 = n / 4096 * 4096 := fun n hn => by
    rw [show (0xF000 : Nat) = (2 ^ 4 - 1) <<< 12 from rfl]
    apply Nat.eq_of_testBit_eq
    intro k
    rw [Nat.testBit_and, Nat.testBit_shiftLeft, Nat.testBit_two_pow_sub_one,
      show n / 4096 * 4096 = (n / 2 ^ 12) * 2 ^ 12 from rfl, Nat.testBit_mul_two_pow, Nat.testBit_div_two_pow]
    by_cases hk : 12 ≤ k
    · by_cases hk' : k < 16
      · simp [hk, show k - 12 < 4 by omega]
      · have : n.testBit k = false := Nat.testBit_lt_two_pow (lt_of_lt_of_le hn (Nat.pow_le_pow_right (by norm_num) (by omega)))
        simp [hk, this]
    · simp [hk]
  rw [maskedBits, hm _ (packWord op f).isLt, packWord_toNat]
  omega

theorem TableRow.nop (f : Fields) : TableRow.Statement (.nop f) := maskedBits_packWord _ f
theorem TableRow.mov (f : Fields) : TableRow.Statement (.mov f) := maskedBits_packWord _ f
theorem TableRow.add (f : Fields) : TableRow.Statement (.add f) := maskedBits_packWord _ f
theorem TableRow.sub (f : Fields) : TableRow.Statement (.sub f) := maskedBits_packWord _ f
theorem TableRow.and (f : Fields) : TableRow.Statement (.and f) := maskedBits_packWord _ f
theorem TableRow.or (f : Fields) : TableRow.Statement (.or f) := maskedBits_packWord _ f
theorem TableRow.mul (f : Fields) : TableRow.Statement (.mul f) := maskedBits_packWord _ f
theorem TableRow.div (f : Fields) : TableRow.Statement (.div f) := maskedBits_packWord _ f
theorem TableRow.jmp (f : Fields) : TableRow.Statement (.jmp f) := maskedBits_packWord _ f
theorem TableRow.jz (f : Fields) : TableRow.Statement (.jz f) := maskedBits_packWord _ f
theorem TableRow.call (f : Fields) : TableRow.Statement (.call f) := maskedBits_packWord _ f
theorem TableRow.ret (f : Fields) : TableRow.Statement (.ret f) := maskedBits_packWord _ f
theorem TableRow.halt (f : Fields) : TableRow.Statement (.halt f) := maskedBits_packWord _ f
theorem TableRow.load (f : Fields) : TableRow.Statement (.load f) := maskedBits_packWord _ f
theorem TableRow.store (f : Fields) : TableRow.Statement (.store f) := maskedBits_packWord _ f
theorem TableRow.reserved15 (f : Fields) : TableRow.Statement (.reserved15 f) := maskedBits_packWord _ f
theorem TableRow.aluZero : TableRow.Statement .aluZero := rfl
theorem TableRow.aluOne : TableRow.Statement .aluOne := rfl
theorem TableRow.aluMinus1 : TableRow.Statement .aluMinus1 := rfl
theorem TableRow.aluPassx : TableRow.Statement .aluPassx := rfl
theorem TableRow.aluPassy : TableRow.Statement .aluPassy := rfl
theorem TableRow.aluNotx : TableRow.Statement .aluNotx := rfl
theorem TableRow.aluNoty : TableRow.Statement .aluNoty := rfl
theorem TableRow.aluNegx : TableRow.Statement .aluNegx := rfl
theorem TableRow.aluNegy : TableRow.Statement .aluNegy := rfl
theorem TableRow.aluIncx : TableRow.Statement .aluIncx := rfl
theorem TableRow.aluIncy : TableRow.Statement .aluIncy := rfl
theorem TableRow.aluDecx : TableRow.Statement .aluDecx := rfl
theorem TableRow.aluDecy : TableRow.Statement .aluDecy := rfl
theorem TableRow.aluAdd : TableRow.Statement .aluAdd := rfl
theorem TableRow.aluSubxy : TableRow.Statement .aluSubxy := rfl
theorem TableRow.aluSubyx : TableRow.Statement .aluSubyx := rfl
theorem TableRow.aluAnd : TableRow.Statement .aluAnd := rfl
theorem TableRow.aluOr : TableRow.Statement .aluOr := rfl
theorem TableRow.aluMul : TableRow.Statement .aluMul := rfl
theorem TableRow.aluDiv : TableRow.Statement .aluDiv := rfl

end Sys2Proof.Laws
end

