-- ==== Sys2Proof/Laws/Run.lean ====
section
/-!
SUPPORT. The host's `k` steps, one step at a time.
-/

namespace Sys2Proof.Machine

variable {s t : State}

theorem core_run_zero : Sys2Proof.core.run 0 s = .next s := rfl

theorem core_run_succ {k : Nat} (h : step s = .next t) :
    Sys2Proof.core.run (k + 1) s = Sys2Proof.core.run k t := by
  simp [Host.Core.run, Sys2Proof.core, h]

theorem core_run_succ_next {k : Nat} (h : Sys2Proof.core.run (k + 1) s = .next t) :
    ∃ u, step s = .next u ∧ Sys2Proof.core.run k u = .next t := by
  cases hs : step s with
  | next u => exact ⟨u, rfl, core_run_succ hs ▸ h⟩
  | fault r => simp [Host.Core.run, Sys2Proof.core, hs] at h
  | refused r => simp [Host.Core.run, Sys2Proof.core, hs] at h

end Sys2Proof.Machine
end

