-- ==== Sys2Proof/Tests/Slice0.lean ====
section
/-!
SUPPORT. Tests. Expected values are taken from spec/: the encodings of 30_encoding.md and 40_alu.md written out bit by
bit, and the rows of 95_test_vectors.md (named in the docstrings). After them, for every obligation with
hypotheses, a witness: a concrete state and operands that meet them, at the boundary values of each clause.
-/

namespace Sys2Proof.Tests

open Sys2Proof.Machine

/-! ## Helpers -/

/-- The next state of an outcome. -/
def nextOf (o : Host.Outcome State Fault Refusal) : Option State :=
  match o with
  | .next s => some s
  | _ => none

/-- The four flags in the order of 95_test_vectors.md: `zr ng ov cy`. -/
def flagsOf (zr ng ov cy : Bool) : Flags := ⟨zr, ng, ov, cy⟩

/-- After reset, with the word `w` at address `a`, IP there, and the registers listed. -/
def boot (a : Word) (w : Word) (rs : List (RegNum × Word)) : State :=
  rs.foldl (fun s r => s.setReg r.1 r.2)
    { State.reset with ip := a, mem := State.reset.mem.set a.toNat w }

/-- One step on a register row of V-AL: registers 0 and 1 and the flags before; register 0, the flags, IP and
`running` after. -/
def al (w x y : Word) (fl : Flags) : Option (Word × Flags × Word × Bool) :=
  (nextOf (step ((boot 0 w [(0, x), (1, y)]).setFlags fl))).map
    (fun t => (t.reg 0, t.flags, t.ip, t.running))

/-! ## Decoding: words written out from the encoding (R51, R55) -/

theorem test_decode_nop :
    decode (.word 0b0000_011_101_100101#16) = .ok (.nop ⟨0b011, 0b101, 0b100101⟩) := by rfl
theorem test_decode_mov :
    decode (.word 0b0001_011_101_100101#16) = .ok (.mov ⟨0b011, 0b101, 0b100101⟩) := by rfl
theorem test_decode_add :
    decode (.word 0b0010_100_001_010011#16) = .ok (.add ⟨0b100, 0b001, 0b010011⟩) := by rfl
theorem test_decode_sub :
    decode (.word 0b0011_100_001_010011#16) = .ok (.sub ⟨0b100, 0b001, 0b010011⟩) := by rfl
theorem test_decode_and :
    decode (.word 0b0100_110_011_000001#16) = .ok (.and ⟨0b110, 0b011, 0b000001⟩) := by rfl
theorem test_decode_or :
    decode (.word 0b0101_110_011_100000#16) = .ok (.or ⟨0b110, 0b011, 0b100000⟩) := by rfl
theorem test_decode_mul :
    decode (.word 0b0110_001_100_000000#16) = .ok (.mul ⟨0b001, 0b100, 0b000000⟩) := by rfl
theorem test_decode_div :
    decode (.word 0b0111_001_100_000000#16) = .ok (.div ⟨0b001, 0b100, 0b000000⟩) := by rfl
theorem test_decode_jmp :
    decode (.word 0b1000_000_000_100001#16) = .ok (.jmp ⟨0b000, 0b000, 0b100001⟩) := by rfl
theorem test_decode_jz :
    decode (.word 0b1001_000_000_110001#16) = .ok (.jz ⟨0b000, 0b000, 0b110001⟩) := by rfl
theorem test_decode_call :
    decode (.word 0b1010_010_110_111000#16) = .ok (.call ⟨0b010, 0b110, 0b111000⟩) := by rfl
theorem test_decode_ret :
    decode (.word 0b1011_010_110_111000#16) = .ok (.ret ⟨0b010, 0b110, 0b111000⟩) := by rfl
theorem test_decode_halt :
    decode (.word 0b1100_000_000_000000#16) = .ok (.halt ⟨0b000, 0b000, 0b000000⟩) := by rfl
theorem test_decode_load :
    decode (.word 0b1101_101_010_000000#16) = .ok (.load ⟨0b101, 0b010, 0b000000⟩) := by rfl
theorem test_decode_store :
    decode (.word 0b1110_101_010_000000#16) = .ok (.store ⟨0b101, 0b010, 0b000000⟩) := by rfl
theorem test_decode_reserved15 :
    decode (.word 0b1111_000_100_100011#16) = .ok (.reserved15 ⟨0b000, 0b100, 0b100011⟩) := by rfl

/-- R73: the twenty codes, in the table's `zx nx zy ny f no`. -/
theorem test_decode_alu6 :
    decode (.alu6 (aluControl true false true false true false)) = .ok .aluZero ∧
    decode (.alu6 (aluControl true true true true true true)) = .ok .aluOne ∧
    decode (.alu6 (aluControl true true true false true false)) = .ok .aluMinus1 ∧
    decode (.alu6 (aluControl false false true true false false)) = .ok .aluPassx ∧
    decode (.alu6 (aluControl true true false false false false)) = .ok .aluPassy ∧
    decode (.alu6 (aluControl false false true true false true)) = .ok .aluNotx ∧
    decode (.alu6 (aluControl true true false false false true)) = .ok .aluNoty ∧
    decode (.alu6 (aluControl false false true true true true)) = .ok .aluNegx ∧
    decode (.alu6 (aluControl true true false false true true)) = .ok .aluNegy ∧
    decode (.alu6 (aluControl false true true true true true)) = .ok .aluIncx ∧
    decode (.alu6 (aluControl true true false true true true)) = .ok .aluIncy ∧
    decode (.alu6 (aluControl false false true true true false)) = .ok .aluDecx ∧
    decode (.alu6 (aluControl true true false false true false)) = .ok .aluDecy ∧
    decode (.alu6 (aluControl false false false false true false)) = .ok .aluAdd ∧
    decode (.alu6 (aluControl false true false false true true)) = .ok .aluSubxy ∧
    decode (.alu6 (aluControl false false false true true true)) = .ok .aluSubyx ∧
    decode (.alu6 (aluControl false false false false false false)) = .ok .aluAnd ∧
    decode (.alu6 (aluControl false true false true false true)) = .ok .aluOr ∧
    decode (.alu6 (aluControl true false false false false false)) = .ok .aluMul ∧
    decode (.alu6 (aluControl true false false false false true)) = .ok .aluDiv := by
  refine ⟨?_, ?_, ?_, ?_, ?_, ?_, ?_, ?_, ?_, ?_, ?_, ?_, ?_, ?_, ?_, ?_, ?_, ?_, ?_, ?_⟩ <;> rfl

/-- R74: an undefined code is refused by name. -/
theorem test_decode_undefined_code :
    decode (.alu6 0b100010#6) = .error (.unimplementedAluCode 0b100010#6) := by rfl

/-- The rows of spec/opcode_table.json: their width in bits, their `match` word, the instruction. -/
def tableRows : List (Nat × Nat × Instr) :=
  [(16, 0x0000, .nop ⟨0, 0, 0⟩), (16, 0x1000, .mov ⟨0, 0, 0⟩), (16, 0x2000, .add ⟨0, 0, 0⟩),
   (16, 0x3000, .sub ⟨0, 0, 0⟩), (16, 0x4000, .and ⟨0, 0, 0⟩), (16, 0x5000, .or ⟨0, 0, 0⟩),
   (16, 0x6000, .mul ⟨0, 0, 0⟩), (16, 0x7000, .div ⟨0, 0, 0⟩), (16, 0x8000, .jmp ⟨0, 0, 0⟩),
   (16, 0x9000, .jz ⟨0, 0, 0⟩), (16, 0xA000, .call ⟨0, 0, 0⟩), (16, 0xB000, .ret ⟨0, 0, 0⟩),
   (16, 0xC000, .halt ⟨0, 0, 0⟩), (16, 0xD000, .load ⟨0, 0, 0⟩), (16, 0xE000, .store ⟨0, 0, 0⟩),
   (16, 0xF000, .reserved15 ⟨0, 0, 0⟩)] ++
  [(8, 42, .aluZero), (8, 63, .aluOne), (8, 58, .aluMinus1), (8, 12, .aluPassx), (8, 48, .aluPassy),
   (8, 13, .aluNotx), (8, 49, .aluNoty), (8, 15, .aluNegx), (8, 51, .aluNegy), (8, 31, .aluIncx),
   (8, 55, .aluIncy), (8, 14, .aluDecx), (8, 50, .aluDecy), (8, 2, .aluAdd), (8, 19, .aluSubxy),
   (8, 7, .aluSubyx), (8, 0, .aluAnd), (8, 21, .aluOr), (8, 32, .aluMul), (8, 33, .aluDiv)]

/-- Every row decodes to its instruction, and right after reset the next step issues exactly it. -/
theorem test_table_rows :
    tableRows.all (fun r =>
      decide (decodeTableWord r.1 r.2.1 = some r.2.2) &&
      match frontEnd (State.reset.withFetchWord r.1 r.2.1) with
      | .issue i _ => decide (i = r.2.2)
      | _ => false) = true := by decide

/-- Placing an instruction in a stopped machine whose IP is beyond memory starts it again at address 0. -/
theorem test_withFetchWord_restarts :
    (nextOf (step ((State.reset.raise .halt).setIp 400#16 |>.withFetchWord 16 0x1005))).map
      (fun t => (t.reg 0, t.ip, t.running)) = some (5#16, 1#16, true) := by decide

/-! ## WellFormed refuses ill-formed terms (R56, R59, C4) -/

theorem test_wf_unused_fields :
    (Instr.nop ⟨1, 0, 0⟩).wf = false ∧ (Instr.ret ⟨0, 1, 0⟩).wf = false ∧ (Instr.halt ⟨0, 0, 1⟩).wf = false ∧
    (Instr.mov ⟨7, 1, 63⟩).wf = false ∧ (Instr.add ⟨7, 7, 63⟩).wf = false ∧ (Instr.sub ⟨7, 4, 63⟩).wf = false ∧
    (Instr.and ⟨7, 7, 1⟩).wf = false ∧ (Instr.or ⟨7, 7, 32⟩).wf = false ∧ (Instr.mul ⟨7, 7, 63⟩).wf = false ∧
    (Instr.div ⟨7, 7, 2⟩).wf = false ∧ (Instr.load ⟨7, 7, 4⟩).wf = false ∧ (Instr.store ⟨7, 7, 8⟩).wf = false ∧
    (Instr.jmp ⟨1, 0, 63⟩).wf = false ∧ (Instr.jz ⟨0, 1, 63⟩).wf = false ∧ (Instr.call ⟨4, 4, 63⟩).wf = false := by
  decide

theorem test_wf_reserved : (Instr.reserved15 ⟨0, 0, 0⟩).wf = false := by decide

theorem test_wf_accepts :
    (Instr.mov ⟨7, 0, 63⟩).wf = true ∧ (Instr.and ⟨7, 7, 0⟩).wf = true ∧ (Instr.call ⟨0, 0, 63⟩).wf = true ∧
    (Instr.nop ⟨0, 0, 0⟩).wf = true ∧ Instr.aluDiv.wf = true := by decide

theorem test_asm_refuses :
    assemble (.bare .mov) = none ∧ assemble (.regImm .and 0 0) = none ∧ assemble (.regReg .add 0 1) = none ∧
    assemble (.target .nop 5) = none ∧ assemble (.regImm .mov 8 0) = none ∧ assemble (.regImm .mov 0 64) = none ∧
    assemble (.regReg .div 8 0) = none ∧ assemble (.regReg .div 0 8) = none ∧ assemble (.target .jmp 64) = none ∧
    assemble (.literal 65536) = none := by decide

/-- R61: the worked encodings, as lines. -/
theorem test_asm_words :
    assemble (.regImm .mov 0 5) = some 0x1005#16 ∧ assemble (.regImm .add 0 3) = some 0x2003#16 ∧
    assemble (.bare .halt) = some 0xC000#16 ∧ assemble (.regReg .div 0 1) = some 0x7040#16 ∧
    assemble (.regReg .store 3 5) = some 0xE740#16 ∧ assemble (.target .call 10) = some 0xA00A#16 ∧
    assemble (.literal 0xFFFF) = some 0xFFFF#16 := by decide

/-! ## One step of each instruction (V-MOV, V-AL, V-CTL, V-LS) -/

/-- V-MOV 2: NOP with junk fields. -/
theorem test_step_nop : step (boot 0 0x0FFF []) = .next { boot 0 0x0FFF [] with ip := 1 } := by rfl

/-- V-MOV 3 and 5: MOV, and MOV of 0, which sets no flag. -/
theorem test_step_mov :
    al 0x1005 0xBEEF 0 (flagsOf true false true false) = some (5, flagsOf true false true false, 1, true) ∧
    al 0x1000 9 0 (flagsOf false false false false) = some (0, flagsOf false false false false, 1, true) := by
  decide

/-- V-AL 2 and 5: ADD. -/
theorem test_step_add :
    al 0x2001 0xFFFF 0 (flagsOf false false false false) = some (0, flagsOf true false false true, 1, true) ∧
    al 0x203F 0x7FC1 0 (flagsOf false false false false) = some (0x8000, flagsOf false true true false, 1, true) := by
  decide

/-- V-AL 10, 15 and 16: SUB. -/
theorem test_step_sub :
    al 0x3005 3 0 (flagsOf false false false false) = some (0xFFFE, flagsOf false true false true, 1, true) ∧
    al 0x303F 0x803E 0 (flagsOf false false false false) = some (0x7FFF, flagsOf false false true false, 1, true) ∧
    al 0x303F 0x803F 0 (flagsOf false false false false) = some (0x8000, flagsOf false true false false, 1, true) := by
  decide

/-- V-AL 19 and 20: AND keeps `ov` and `cy`. -/
theorem test_step_and :
    al 0x4040 0xF0F0 0xFF00 (flagsOf false false true true) = some (0xF000, flagsOf false true true true, 1, true) ∧
    al 0x4040 0xAAAA 0x5555 (flagsOf false false false false) = some (0, flagsOf true false false false, 1, true) := by
  decide

/-- V-AL 21 and 22: OR. -/
theorem test_step_or :
    al 0x5040 0xF0F0 0x0F00 (flagsOf false false true false) = some (0xFFF0, flagsOf false true true false, 1, true) ∧
    al 0x5040 0 0 (flagsOf false true false false) = some (0, flagsOf true false false false, 1, true) := by
  decide

/-- V-AL 24 and 25: MUL clears `cy`. -/
theorem test_step_mul :
    al 0x6040 3 5 (flagsOf false false false true) = some (15, flagsOf false false false false, 1, true) ∧
    al 0x6040 0x0100 0x0100 (flagsOf false false false false) = some (0, flagsOf true false true false, 1, true) := by
  decide

/-- V-AL 30, 31 and 34: DIV, its stop, and its unsignedness. -/
theorem test_step_div :
    al 0x7040 7 2 (flagsOf false true true true) = some (3, flagsOf false false true true, 1, true) ∧
    al 0x7040 7 0 (flagsOf false true true true) = some (7, flagsOf false true true true, 1, false) ∧
    al 0x7040 0x8000 0xFFFF (flagsOf false false false false) = some (0, flagsOf true false false false, 1, true) := by
  decide

/-- V-CTL 3: JMP with junk fields. -/
theorem test_step_jmp : step (boot 0 0x8FFF []) = .next { boot 0 0x8FFF [] with ip := 63 } := by rfl

/-- V-CTL 4 and 5: JZ. -/
theorem test_step_jz :
    ((nextOf (step ((boot 0 0x9009 []).setFlags (flagsOf true false false false)))).map State.ip = some 9) ∧
    ((nextOf (step ((boot 0 0x9009 []).setFlags (flagsOf false true true true)))).map State.ip = some 1) := by
  decide

/-- V-CTL 9 and 13: CALL pushing onto the port's address, and over its own word. -/
theorem test_step_call :
    step { boot 4 0xA00A [] with sp := 32 } =
      .next { State.reset with mem := [(4, 0xA00A), (32, 5)], sp := 31, ip := 10, depth := 1 } ∧
    step (boot 399 0xA00A []) =
      .next { State.reset with mem := [(399, 400)], sp := 398, ip := 10, depth := 1 } := by
  exact ⟨rfl, rfl⟩

/-- V-CTL 7: CALL on a full stack. -/
theorem test_step_call_overflow :
    step { boot 4 0xA00A [] with sp := 0 } =
      .next { State.reset with
        mem := [(4, 0xA00A)], sp := 0, ip := 5, running := false, reason := .stackOverflow } := by
  rfl

/-- V-CTL 10 and 11: RET, and RET on an empty stack. -/
theorem test_step_ret :
    ((nextOf (step { boot 10 0xB000 [] with sp := 398, mem := [(10, 0xB000), (399, 5)] })).map
      (fun t => (t.mem, t.sp, t.ip)) = some ([(10, 0xB000), (399, 5)], 399, 5)) ∧
    ((nextOf (step (boot 10 0xB000 []))).map
      (fun t => (t.status, t.sp, t.ip)) = some ((false, 4), 399, 11)) := by
  decide

/-- V-CTL 14 and 15: HALT. -/
theorem test_step_halt :
    (nextOf (step (boot 0 0xC751 []))).map (fun t => (t.status, t.ip)) = some ((false, 1), 1) := by decide

/-- V-CTL 16: opcode 15. -/
theorem test_step_reserved15 :
    (nextOf (step (boot 0 0xFFFF []))).map (fun t => (t.status, t.ip)) = some ((false, 5), 1) := by decide

/-- V-LS 1 and 3: LOAD, from memory and from beyond it. -/
theorem test_step_load :
    ((nextOf (step { boot 0 0xD280 [(2, 100)] with mem := [(0, 0xD280), (100, 0xBEEF)] })).map
      (fun t => t.reg 1) = some 0xBEEF) ∧
    ((nextOf (step (boot 0 0xD280 [(1, 0x1111), (2, 400)]))).map (fun t => t.reg 1) = some 0) := by
  decide

/-- V-LS 8 and 10: STORE to the port, and beyond memory. -/
theorem test_step_store :
    ((nextOf (step (boot 0 0xE280 [(1, 0x1241), (2, 32)]))).map
      (fun t => (t.out, t.mem)) = some ([0x41], [(0, 0xE280), (32, 0x1241)])) ∧
    ((nextOf (step (boot 0 0xE280 [(1, 0x1234), (2, 400)]))).map
      (fun t => (t.out, t.mem)) = some ([], [(0, 0xE280)])) := by
  decide

/-- V-ALU: one row or two for each function, through the ALU's own interface. -/
theorem test_alu_rows :
    aluCompute 0x1234 0xABCD 0b101010 = ⟨0x0000, flagsOf true false false false, .ok⟩ ∧
    aluCompute 0x1234 0xABCD 0b111111 = ⟨0x0001, flagsOf false false false false, .ok⟩ ∧
    aluCompute 0x1234 0xABCD 0b111010 = ⟨0xFFFF, flagsOf false true false false, .ok⟩ ∧
    aluCompute 0x8001 0x0002 0b001100 = ⟨0x8001, flagsOf false true false false, .ok⟩ ∧
    aluCompute 0x8001 0x0002 0b110000 = ⟨0x0002, flagsOf false false false false, .ok⟩ ∧
    aluCompute 0x00FF 0x1111 0b001101 = ⟨0xFF00, flagsOf false true false false, .ok⟩ ∧
    aluCompute 0x1111 0x00FF 0b110001 = ⟨0xFF00, flagsOf false true false false, .ok⟩ ∧
    aluCompute 0x0001 0x0000 0b001111 = ⟨0xFFFF, flagsOf false true false false, .ok⟩ ∧
    aluCompute 0x0000 0x8000 0b110011 = ⟨0x8000, flagsOf false true false false, .ok⟩ ∧
    aluCompute 0xFFFF 0x0009 0b011111 = ⟨0x0000, flagsOf true false false true, .ok⟩ ∧
    aluCompute 0x0009 0x0005 0b110111 = ⟨0x0006, flagsOf false false false false, .ok⟩ ∧
    aluCompute 0x0005 0x0009 0b001110 = ⟨0x0004, flagsOf false false false false, .ok⟩ ∧
    aluCompute 0x0009 0x0000 0b110010 = ⟨0xFFFF, flagsOf false true false false, .ok⟩ := by
  decide

/-- V-ALU: add, subtract, and, or, multiply, divide. -/
theorem test_alu_arithmetic_rows :
    aluCompute 0x8000 0x8000 0b000010 = ⟨0x0000, flagsOf true false true true, .ok⟩ ∧
    aluCompute 0x0000 0x8000 0b010011 = ⟨0x8000, flagsOf false true true true, .ok⟩ ∧
    aluCompute 0x0005 0x0003 0b000111 = ⟨0xFFFE, flagsOf false true false true, .ok⟩ ∧
    aluCompute 0x0001 0x8000 0b000111 = ⟨0x7FFF, flagsOf false false true false, .ok⟩ ∧
    aluCompute 0xF0F0 0xFF00 0b000000 = ⟨0xF000, flagsOf false true false false, .ok⟩ ∧
    aluCompute 0xF0F0 0x0F00 0b010101 = ⟨0xFFF0, flagsOf false true false false, .ok⟩ ∧
    aluCompute 0x0100 0x0100 0b100000 = ⟨0x0000, flagsOf true false true false, .ok⟩ ∧
    aluCompute 0x0007 0x0002 0b100001 = ⟨0x0003, flagsOf false false false false, .ok⟩ ∧
    aluCompute 0x0007 0x0000 0b100001 = ⟨0x0000, flagsOf true false true false, .divZero⟩ ∧
    (aluCompute 0x0007 0x0000 0b111110).cond = .unimplementedCode := by
  refine ⟨?_, ?_, ?_, ?_, ?_, ?_, ?_, ?_, ?_, ?_⟩ <;> rfl

/-- A presented code is answered by the next step. -/
theorem test_step_alu_incx :
    (nextOf (step (State.reset.aluPresent 0xFFFF 0x0009 0b011111))).map (fun t => (t.alu.out, t.ip)) =
      some (⟨0x0000, flagsOf true false false true, .ok⟩, 0) := by decide

/-! ## Whole small machines -/

/-- P1: the source's end-to-end scenario. -/
theorem test_program_p1 :
    ((State.load [0x1005, 0x2003, 0xC000]).bind (run 3)).map (fun t => (t.reg 0, t.ip, t.status)) =
      some (8, 3, (false, 1)) := by decide

/-- P3, its third outer step: CALL and MUL. -/
theorem test_outer_step_p3 :
    ((State.load [0xA002, 0xC000, 0x6040, 0xB000]).bind (outerStep 2)).map (fun t => (t.ip, t.sp, t.depth)) =
      some (3, 398, 1) := by decide

/-! ## Witnesses: the hypotheses of each obligation, met together -/

theorem witness_DecodeAndEncodeAgree :
    decode (.word 0xE740#16) = .ok (.store ⟨3, 5, 0⟩) ∧ decode (.alu6 0b100001) = .ok .aluDiv := by
  exact ⟨rfl, rfl⟩

theorem witness_UnusedFieldsAreIgnored :
    (let f : Fields := ⟨3, 0, 9⟩; let g : Fields := ⟨3, 7, 9⟩; f ≠ g ∧ f.reg1 = g.reg1 ∧ f.imm = g.imm) ∧
    (let f : Fields := ⟨3, 5, 0⟩; let g : Fields := ⟨3, 5, 63⟩; f ≠ g ∧ f.reg1 = g.reg1 ∧ f.reg2 = g.reg2) ∧
    (let f : Fields := ⟨0, 0, 9⟩; let g : Fields := ⟨7, 1, 9⟩; f ≠ g ∧ f.imm = g.imm) := by decide

theorem witness_AssemblerWritesTheCanonicalWords :
    ((∀ v, Asm.regImm .mov 7 63 ≠ .literal v) ∧ assemble (.regImm .mov 7 63) = some 0x1E3F#16) ∧
    (decodeWord 0x1E3F#16).wf = true := by
  exact ⟨⟨(fun _ h => (nomatch h)), by decide⟩, by decide⟩

theorem witness_NopChangesNothing :
    ((boot 0 0 []).Fetches 0x0000#16 ∧ (0x0000#16).extractLsb' 12 4 = 0#4) ∧
    ((boot 399 0x0FFF []).Fetches 0x0FFF#16 ∧ (0x0FFF#16).extractLsb' 12 4 = 0#4) := by decide

theorem witness_DivDividesOrStops :
    (let f : Fields := ⟨0, 1, 0⟩; (boot 0 0x7040 [(0, 7), (1, 1)]).reg f.reg2 ≠ 0#16) ∧
    (let f : Fields := ⟨3, 3, 0⟩; (boot 0 0x76C0 [(3, 0xFFFF)]).reg f.reg2 ≠ 0#16) ∧
    (let f : Fields := ⟨0, 1, 0⟩; (boot 0 0x7040 [(0, 7)]).reg f.reg2 = 0#16) := by decide

/-- R162: room on the stack at SP 1 and at SP 399; none at SP 0. -/
theorem witness_CallPushesAndJumpsOrOverflows :
    (let s := { boot 4 0xA00A [] with sp := 1 };
      1 ≤ s.sp.toNat ∧ s.sp.toNat ≤ 399 ∧ s.mem.wf = true) ∧
    (let s := boot 399 0xA00A []; 1 ≤ s.sp.toNat ∧ s.sp.toNat ≤ 399 ∧ s.mem.wf = true) ∧
    (let s := { boot 4 0xA00A [] with sp := 0 }; s.sp.toNat = 0) := by decide

theorem witness_RetPopsOrUnderflows :
    (let s := { boot 4 0xB000 [] with sp := 0 }; s.sp.toNat ≤ 398) ∧
    (let s := { boot 4 0xB000 [] with sp := 398 }; s.sp.toNat ≤ 398) ∧
    (boot 4 0xB000 []).sp.toNat = 399 := by decide

/-- The invariant at the ends of SP's range, where CALL and RET each either stop or access the first or last slot. -/
theorem witness_StackAccessesStayInMemory :
    State.Inv { boot 4 0xA00A [] with sp := 0 } ∧ State.Inv { boot 4 0xA00A [] with sp := 1 } ∧
    State.Inv { boot 4 0xB000 [] with sp := 398 } ∧ State.Inv (boot 4 0xB000 []) := by decide

/-- A RET that does pop, from the lowest slot. -/
theorem witness_StackAccessesStayInMemory_pop :
    ∃ t : State, exec (.ret ⟨0, 0, 0⟩) { boot 4 0xB000 [] with sp := 0 } = .next t ∧ t.sp ≠ 0#16 := by
  exact ⟨_, rfl, by decide⟩

/-- The model's choice in states no run reaches (log entries 7 and 8): CALL faults at 400, RET faults at 65534, RET goes
on at 65535. -/
theorem test_stack_access_outside_memory :
    exec (.call ⟨0, 0, 3⟩) { State.reset with sp := 400 } = .fault (.directAccessOutOfRange 400) ∧
    exec (.ret ⟨0, 0, 0⟩) { State.reset with sp := 65534 } = .fault (.directAccessOutOfRange 65535) ∧
    exec (.ret ⟨0, 0, 0⟩) { State.reset with sp := 65535 } = .next { State.reset with sp := 0 } := by
  refine ⟨?_, ?_, ?_⟩ <;> rfl

theorem witness_ReservedOpcodeStops :
    ((boot 0 0xF000 []).Fetches 0xF000#16 ∧ 0xF000 ≤ (0xF000#16).toNat) ∧
    ((boot 399 0xFFFF []).Fetches 0xFFFF#16 ∧ 0xF000 ≤ (0xFFFF#16).toNat) := by decide

/-- R31, R32 at the port, at the last word and beyond it, the address read being the written one or not. -/
theorem witness_MemReadAndMemWriteAreTotal :
    State.reset.mem.wf = true ∧
    ((State.reset.memWrite 32 0x1241).memRead 32 = 0x1241 ∧ (State.reset.memWrite 32 0x1241).out = [0x41]) ∧
    ((State.reset.memWrite 399 7).memRead 399 = 7 ∧ (State.reset.memWrite 399 7).memRead 398 = 0) ∧
    (State.reset.memWrite 400 7).memRead 400 = 0 := by decide

theorem witness_StoreWritesOneWordAndThePort :
    (let s := boot 0 0xE280 [(1, 7), (2, 400)]; let f : Fields := ⟨1, 2, 0⟩;
      400 ≤ (s.reg f.reg2).toNat ∧ s.mem.wf = true) ∧
    (let s := boot 0 0xE280 [(1, 7), (2, 399)]; let f : Fields := ⟨1, 2, 0⟩;
      (s.reg f.reg2).toNat = 399 ∧ s.mem.wf = true) ∧
    (let s := boot 0 0xE280 [(1, 7), (2, 32)]; let f : Fields := ⟨1, 2, 0⟩;
      (s.reg f.reg2).toNat = 32 ∧ s.mem.wf = true) := by decide

theorem witness_PipelineComputesTheTextbookFunctions :
    (AluFn.incx ≠ .mul ∧ AluFn.incx ≠ .div) ∧ (AluFn.zero ≠ .mul ∧ AluFn.zero ≠ .div) := by decide

theorem witness_PresentedAluCodeIsAnswered :
    (State.reset.aluPresent 7 0 0b100001).alu.drive = some 0b100001#6 ∧
    (State.reset.aluPresent 7 0 0b000001).alu.drive = some 0b000001#6 ∧
    (∀ g : AluFn, 0b000001#6 ≠ aluCode g) := by
  refine ⟨rfl, rfl, fun g => ?_⟩
  cases g <;> decide

theorem witness_StepRunsTheDecodedInstruction :
    (boot 0 0x1005 []).Fetches 0x1005#16 ∧ (boot 399 0xA00A []).Fetches 0xA00A#16 ∧
    (State.reset.aluPresent 1 2 0b000010).alu.drive = some 0b000010#6 ∧
    decode (.alu6 0b000010) = .ok .aluAdd := by
  refine ⟨by decide, by decide, rfl, rfl⟩

theorem witness_FetchOutOfRangeStops :
    (let s := State.reset.setIp 400#16; s.running = true ∧ s.alu.drive = none ∧ 400 ≤ s.ip.toNat) ∧
    (let s := State.reset.setIp 65535#16; s.running = true ∧ s.alu.drive = none ∧ 400 ≤ s.ip.toNat) := by decide

theorem witness_HaltedAbsorbs :
    (let s := State.reset.raise .halt; s.running = false ∧ s.alu.drive = none) ∧
    (let s := (State.reset.raise .halt).aluPresent 1 2 0b000010;
      s.running = false ∧ ∃ t, Sys2Proof.core.run 2 s = .next t) := by
  exact ⟨by decide, by decide, _, rfl⟩

/-- R210: no word, a full memory, one word too many. -/
theorem witness_LoadPlacesTheProgram :
    ([] : List Word).length ≤ 400 ∧ (List.replicate 400 0x1005#16).length ≤ 400 ∧
    400 < (List.replicate 401 0x1005#16).length := by
  simp only [List.length_replicate]; decide

theorem witness_EveryStepKeepsTheInvariant :
    State.Inv { boot 4 0xA00A [] with sp := 1 } ∧
    ∃ t : State, step { boot 4 0xA00A [] with sp := 1 } = .next t ∧ t.sp = 0#16 := by
  exact ⟨by decide, _, rfl, by decide⟩

theorem witness_EveryStepCompletes :
    State.Inv (boot 0 0x1005 []) ∧ State.Inv (boot 0 0x7040 []) ∧ State.Inv { boot 4 0xA00A [] with sp := 0 } := by
  decide

theorem witness_StopChangesOnlyStatusAndIp :
    (∃ t : State, (boot 399 0xC000 []).running = true ∧ step (boot 399 0xC000 []) = .next t ∧
      t.running = false ∧ t.reason = .halt) ∧
    (∃ t : State, (State.reset.setIp 400#16).running = true ∧ step (State.reset.setIp 400#16) = .next t ∧
      t.running = false ∧ t.reason = .fetchOutOfRange) := by
  exact ⟨⟨_, rfl, rfl, by decide, by decide⟩, ⟨_, rfl, rfl, by decide, by decide⟩⟩

/-- Each of the seven clauses on a running state: the reason that the step leaves. -/
theorem witness_EachStopHasItsOneCause :
    (let f := fun s : State => if s.running = true ∧ s.reason = .none ∧ s.alu.drive = none
        then (nextOf (step s)).map State.reason else none;
      f (State.reset.setIp 400#16) = some .fetchOutOfRange ∧ f (boot 399 0xC000 []) = some .halt ∧
      f (boot 0 0x7040 []) = some .divideByZero ∧ f { boot 0 0xA000 [] with sp := 0 } = some .stackOverflow ∧
      f (boot 0 0xB000 []) = some .stackUnderflow ∧ f (boot 0 0xF000 []) = some .unimplementedInstruction ∧
      f { boot 0 0xB000 [] with sp := 398 } = some .none ∧ f { boot 0 0xA000 [] with sp := 1 } = some .none ∧
      f (boot 0 0x7040 [(1, 1)]) = some .none ∧ f (boot 399 0 []) = some .none) := by decide

/-- A fetched opcode outside the first list (NOP), and one in the second (AND). -/
theorem witness_FlagsAreWrittenOnlyByArithmeticAndLogic :
    (∃ t : State, (boot 0 0x1005 []).Fetches 0x1005#16 ∧ step (boot 0 0x1005 []) = .next t ∧
      (0x1005#16).extractLsb' 12 4 ∉ [2#4, 3#4, 4#4, 5#4, 6#4, 7#4]) ∧
    (∃ t : State, (boot 0 0x4040 []).Fetches 0x4040#16 ∧ step (boot 0 0x4040 []) = .next t ∧
      (0x4040#16).extractLsb' 12 4 ∈ [4#4, 5#4, 7#4]) := by
  exact ⟨⟨_, by decide, rfl, by decide⟩, ⟨_, by decide, rfl, by decide⟩⟩

theorem witness_OnlyTheDestinationRegisterIsWritten :
    ∃ t : State, (boot 0 0x1E3F []).Fetches 0x1E3F#16 ∧ step (boot 0 0x1E3F []) = .next t ∧
      t.reg 7 ≠ (boot 0 0x1E3F []).reg 7 := by
  exact ⟨_, by decide, rfl, by decide⟩

/-- A STORE to the last word, and a CALL that pushes to it. -/
theorem witness_OnlyStoreAndCallWriteOneWord :
    (let s := boot 0 0xE280 [(1, 7), (2, 399)];
      ∃ t : State, s.mem.wf = true ∧ s.Fetches 0xE280#16 ∧ step s = .next t ∧
        t.mem.get 399 ≠ s.mem.get 399) ∧
    (let s := boot 0 0xA00A [];
      ∃ t : State, s.mem.wf = true ∧ s.Fetches 0xA00A#16 ∧ step s = .next t ∧
        t.mem.get 399 ≠ s.mem.get 399) := by
  exact ⟨⟨_, by decide, by decide, rfl, by decide⟩, ⟨_, by decide, by decide, rfl, by decide⟩⟩

/-- The four clauses: MOV is in none of the lists, CALL writes SP and DEPTH, JMP is in the last list. -/
theorem witness_ControlStateHasItsWriters :
    (∃ t : State, (boot 0 0x1005 []).Fetches 0x1005#16 ∧ step (boot 0 0x1005 []) = .next t ∧
      (0x1005#16).extractLsb' 12 4 ∉ [8#4, 9#4, 10#4, 11#4]) ∧
    (∃ t : State, (boot 399 0xA00A []).Fetches 0xA00A#16 ∧ step (boot 399 0xA00A []) = .next t ∧
      (0xA00A#16).extractLsb' 12 4 ∈ [8#4, 9#4, 10#4] ∧ t.depth = 1) ∧
    (∃ t : State, (boot 0 0x803F []).Fetches 0x803F#16 ∧ step (boot 0 0x803F []) = .next t ∧
      (0x803F#16).extractLsb' 12 4 ∉ [10#4, 11#4] ∧ (0x803F#16).extractLsb' 12 4 ∈ [8#4, 9#4, 10#4]) := by
  exact ⟨⟨_, by decide, rfl, by decide⟩, ⟨_, by decide, rfl, by decide, by decide⟩,
    ⟨_, by decide, rfl, by decide, by decide⟩⟩

/-- A STORE to the port and one beside it. -/
theorem witness_OnlyAStoreToThePortEmits :
    (let s := boot 0 0xE280 [(1, 0x1241), (2, 32)];
      ∃ t : State, s.Fetches 0xE280#16 ∧ step s = .next t ∧ t.out = [0x41]) ∧
    (let s := boot 0 0xE280 [(1, 0x1241), (2, 33)];
      ∃ t : State, s.Fetches 0xE280#16 ∧ step s = .next t ∧ t.out = []) := by
  exact ⟨⟨_, by decide, rfl, by decide⟩, ⟨_, by decide, rfl, by decide⟩⟩

theorem witness_OutputOnlyGrows :
    ∃ t : State, Sys2Proof.core.run 2 (boot 0 0xE280 [(1, 0x1241), (2, 32)]) = .next t ∧ t.out = [0x41] := by
  exact ⟨_, rfl, by decide⟩

/-- A CALL at the bottom and at the top of the stack, and the RET after it. -/
theorem witness_RetReturnsAfterItsCall :
    (let s := { boot 4 0xA00A [] with sp := 1 };
      ∃ t : State, s.mem.wf = true ∧ 1 ≤ s.sp.toNat ∧ s.sp.toNat ≤ 399 ∧ exec (.call ⟨0, 0, 10⟩) s = .next t ∧
        (t.setIp 11).sp = t.sp ∧ (t.setIp 11).mem.get s.sp.toNat = t.mem.get s.sp.toNat) ∧
    (let s := boot 4 0xA00A [];
      ∃ t : State, s.mem.wf = true ∧ 1 ≤ s.sp.toNat ∧ s.sp.toNat ≤ 399 ∧ exec (.call ⟨0, 0, 10⟩) s = .next t ∧
        (t.setIp 11).sp = t.sp ∧ (t.setIp 11).mem.get s.sp.toNat = t.mem.get s.sp.toNat) := by
  exact ⟨⟨_, by decide, by decide, by decide, rfl, rfl, rfl⟩, ⟨_, by decide, by decide, by decide, rfl, rfl, rfl⟩⟩

/-- A STORE to the very next address, the last one that exists. -/
theorem witness_StoredWordIsFetchedNext :
    let s := boot 398 0xE280 [(1, 0xC000), (2, 399)]
    s.mem.wf = true ∧ s.Fetches 0xE280#16 ∧ (0xE280#16).extractLsb' 12 4 = 14#4 ∧
      s.ip.toNat + 1 < 400 ∧ (s.reg ((0xE280#16).extractLsb' 6 3)).toNat = s.ip.toNat + 1 := by decide

/-- Two different states with the same `unread`, one pair that steps to a next state and one that faults. -/
theorem witness_UnreadStateInfluencesNothing :
    (let s := boot 0 0x1005 [];
      let s' := { boot 0 0x1005 [] with depth := 9, out := [0x41], flags := flagsOf false true true true };
      s ≠ s' ∧ s.unread = s'.unread ∧ ∃ t : State, step s = .next t) ∧
    (let s := { boot 0 0xA005 [] with sp := 400 };
      let s' := { boot 0 0xA005 [] with sp := 400, depth := 9 };
      s ≠ s' ∧ s.unread = s'.unread ∧ step s = .fault (.directAccessOutOfRange 400)) := by
  exact ⟨⟨by decide, by decide, _, rfl⟩, ⟨by decide, by decide, rfl⟩⟩

theorem witness_StepsLeaveTheModelsInputsAlone :
    (∃ t : State, step (boot 0 0x2003 []) = .next t ∧ (boot 0 0x2003 []).alu.drive = none) ∧
    (∃ t : State, step (State.reset.aluPresent 1 2 0b000010) = .next t) := by
  exact ⟨⟨_, rfl, rfl⟩, ⟨_, rfl⟩⟩

/-- An outer step of two `exec1` (CALL, HALT), a run of one, and a run of a halted machine. -/
theorem witness_OuterStepAndRunGroupSteps :
    (∃ t : State, outerStep 2 { boot 0 0xA005 [] with mem := [(0, 0xA005), (5, 0xC000)] } = some t ∧ t.ip = 6) ∧
    (∃ t : State, outerStep 1 (boot 0 0x1005 []) = some t) ∧
    (∃ t : State, run 1 (boot 0 0xC000 []) = some t) ∧
    (∃ t : State, run 0 (State.reset.raise .halt) = some t) := by
  exact ⟨⟨_, rfl, by decide⟩, ⟨_, rfl⟩, ⟨_, rfl⟩, ⟨_, rfl⟩⟩

/-- No two different reasons share a code: the premise is met by a reason and itself. -/
theorem witness_StatusCodes : haltCode .fetchOutOfRange = haltCode .fetchOutOfRange := rfl

end Sys2Proof.Tests
end

/-!
PROOFS. The statements on the state (10_state.md): reset and load, who writes what, the stack's range, and what no rule
reads. First the general facts they share: which of four situations a step is in, and what a format F
instruction can do.
-/

namespace Sys2Proof.Machine

variable {s t : State} {w : Word} {f : Fields} {op : BitVec 4}

/-! ## What a step is, by situation -/

/-- R121, R127, R186: the four situations of a step. -/
theorem step_situations (s : State) :
    (∃ d, s.alu.drive = some d) ∨ (s.alu.drive = none ∧ s.running = false) ∨
      (s.alu.drive = none ∧ s.running = true ∧ 400 ≤ s.ip.toNat) ∨ ∃ w, s.Fetches w := by
  cases hd : s.alu.drive with
  | some d => exact .inl ⟨d, rfl⟩
  | none =>
    cases hr : s.running with
    | false => exact .inr (.inl ⟨rfl, rfl⟩)
    | true =>
      obtain hip | hip := Nat.lt_or_ge s.ip.toNat 400
      · exact .inr (.inr (.inr ⟨_, hr, hd, hip, rfl⟩))
      · exact .inr (.inr (.inl ⟨rfl, rfl, hip⟩))

/-- R70, R74: a code presented to the ALU, defined or not, is answered with what the ALU computes for it. -/
theorem step_of_drive {d : AluCode} (h : s.alu.drive = some d) :
    step s = .next (s.aluRelease.aluObserve (aluCompute s.alu.x s.alu.y d)) := by
  unfold step frontEnd aluFront decode aluCompute
  cases hg : aluFnOf d with
  | some g => simp [h, hg, exec_aluInstr, State.aluAnswer]
  | none => simp [h, hg, State.aluReportUndefined]

theorem step_of_halted (hd : s.alu.drive = none) (hr : s.running = false) : step s = .next s := by
  simp [step, frontEnd, engineFront, hd, hr]

theorem step_of_fetch_out_of_range (hd : s.alu.drive = none) (hr : s.running = true)
    (hip : 400 ≤ s.ip.toNat) : step s = .next (s.raise .fetchOutOfRange) := by
  simp [step, frontEnd, engineFront, hd, hr, State.fetchWord_none.mpr hip]

theorem step_of_fetches (h : s.Fetches w) : step s = exec (decodeWord w) s.advance := by
  obtain ⟨hr, hd, hip, hw⟩ := h
  simp [step, frontEnd, engineFront, hd, hr, State.fetchWord_some.mpr ⟨hip, hw⟩]

/-! ## The forms of an instruction -/

/-- An instruction is one of the 15, the reserved opcode, or a row of the ALU. -/
theorem instr_forms (i : Instr) :
    (∃ m f, i = instrOf m f) ∨ (∃ f, i = .reserved15 f) ∨ ∃ g, i = aluInstr g := by
  cases i with
  | nop f => exact .inl ⟨.nop, f, rfl⟩
  | mov f => exact .inl ⟨.mov, f, rfl⟩
  | add f => exact .inl ⟨.add, f, rfl⟩
  | sub f => exact .inl ⟨.sub, f, rfl⟩
  | and f => exact .inl ⟨.and, f, rfl⟩
  | or f => exact .inl ⟨.or, f, rfl⟩
  | mul f => exact .inl ⟨.mul, f, rfl⟩
  | div f => exact .inl ⟨.div, f, rfl⟩
  | jmp f => exact .inl ⟨.jmp, f, rfl⟩
  | jz f => exact .inl ⟨.jz, f, rfl⟩
  | call f => exact .inl ⟨.call, f, rfl⟩
  | ret f => exact .inl ⟨.ret, f, rfl⟩
  | halt f => exact .inl ⟨.halt, f, rfl⟩
  | load f => exact .inl ⟨.load, f, rfl⟩
  | store f => exact .inl ⟨.store, f, rfl⟩
  | reserved15 f => exact .inr (.inl ⟨f, rfl⟩)
  | aluZero => exact .inr (.inr ⟨.zero, rfl⟩)
  | aluOne => exact .inr (.inr ⟨.one, rfl⟩)
  | aluMinus1 => exact .inr (.inr ⟨.minus1, rfl⟩)
  | aluPassx => exact .inr (.inr ⟨.passx, rfl⟩)
  | aluPassy => exact .inr (.inr ⟨.passy, rfl⟩)
  | aluNotx => exact .inr (.inr ⟨.notx, rfl⟩)
  | aluNoty => exact .inr (.inr ⟨.noty, rfl⟩)
  | aluNegx => exact .inr (.inr ⟨.negx, rfl⟩)
  | aluNegy => exact .inr (.inr ⟨.negy, rfl⟩)
  | aluIncx => exact .inr (.inr ⟨.incx, rfl⟩)
  | aluIncy => exact .inr (.inr ⟨.incy, rfl⟩)
  | aluDecx => exact .inr (.inr ⟨.decx, rfl⟩)
  | aluDecy => exact .inr (.inr ⟨.decy, rfl⟩)
  | aluAdd => exact .inr (.inr ⟨.add, rfl⟩)
  | aluSubxy => exact .inr (.inr ⟨.subxy, rfl⟩)
  | aluSubyx => exact .inr (.inr ⟨.subyx, rfl⟩)
  | aluAnd => exact .inr (.inr ⟨.and, rfl⟩)
  | aluOr => exact .inr (.inr ⟨.or, rfl⟩)
  | aluMul => exact .inr (.inr ⟨.mul, rfl⟩)
  | aluDiv => exact .inr (.inr ⟨.div, rfl⟩)

/-- R57: an opcode value that selects no mnemonic is the reserved one. -/
theorem opcodeOf_none : opcodeOf op = none → op = reservedOpcode := by
  revert op; decide

theorem opcodeOf_some {m : Opcode} (h : opcodeOf op = some m) : op = opmap m :=
  (beq_iff_eq.mp (List.find?_some (p := fun m => opmap m == op) h)).symm

/-- R124: what a word decodes to, by its opcode field. -/
theorem decodeWord_forms (w : Word) :
    (∃ m, (decodeFields w).1 = opmap m ∧ decodeWord w = instrOf m (decodeFields w).2) ∨
      ((decodeFields w).1 = reservedOpcode ∧ decodeWord w = .reserved15 (decodeFields w).2) := by
  cases h : opcodeOf (decodeFields w).1 with
  | some m => exact .inl ⟨m, opcodeOf_some h, by simp [decodeWord, h]⟩
  | none => exact .inr ⟨opcodeOf_none h, by simp [decodeWord, h]⟩

/-- R55, R124: the word of a mnemonic's opcode decodes to that mnemonic's instruction. -/
theorem decodeWord_of_opcode {m : Opcode} (h : w.extractLsb' 12 4 = opmap m) :
    decodeWord w = instrOf m (decodeFields w).2 := by
  have hop : opcodeOf (decodeFields w).1 = some m := (congrArg opcodeOf h).trans (opcodeOf_opmap m)
  simp [decodeWord, hop]

/-! ## What a format F instruction can do -/

/-- R181 to R185: what makes the opcode `op` with fields `f` stop the engine for a reason. -/
def StopCause (f : Fields) (s : State) (op : BitVec 4) (r : StopReason) : Prop :=
  match r with
  | .halt => op = 12#4
  | .divideByZero => op = 7#4 ∧ (s.operand2 f).toNat = 0
  | .stackOverflow => op = 10#4 ∧ s.sp.toNat = 0
  | .stackUnderflow => op = 11#4 ∧ s.sp = 399#16
  | .unimplementedInstruction => op = 15#4
  | .none | .fetchOutOfRange => False

/-- The ways in which the opcode `op` with fields `f` takes a state, IP already advanced, to a next state, grouped
by the operation that the instructions share. It does not say which values the arithmetic and logic
instructions compute. -/
inductive WordEffect (f : Fields) (s : State) : BitVec 4 → State → Prop
  /-- NOP; JZ not taken -/
  | nothing {op : BitVec 4} (hop : op = 0#4 ∨ op = 9#4 ∧ s.flags.zr = false) : WordEffect f s op s
  /-- MOV, LOAD -/
  | move {op : BitVec 4} (v : Word) (hop : op = 1#4 ∨ op = 13#4) : WordEffect f s op (s.setReg f.reg1 v)
  /-- ADD, SUB, MUL -/
  | arith {op : BitVec 4} (v : Word) (fl : Flags) (hop : op = 2#4 ∨ op = 3#4 ∨ op = 6#4) :
      WordEffect f s op ((s.setReg f.reg1 v).setFlags fl)
  /-- AND, OR; DIV by a divisor other than 0 -/
  | logic {op : BitVec 4} (v : Word) (hop : op = 4#4 ∨ op = 5#4 ∨ op = 7#4 ∧ (s.operand2 f).toNat ≠ 0) :
      WordEffect f s op (s.bypassAlu f.reg1 v)
  /-- JMP; JZ taken -/
  | jump {op : BitVec 4} (hop : op = 8#4 ∨ op = 9#4 ∧ s.flags.zr = true) :
      WordEffect f s op (s.setIp (immWord f))
  /-- CALL with room on the stack -/
  | call (hlo : s.sp.toNat ≠ 0) (hhi : s.sp.toNat < 400) :
      WordEffect f s 10#4
        { s with
          mem := s.mem.set s.sp.toNat s.ip, sp := s.sp - 1, ip := immWord f
          depth := (s.depth + 1) % 2 ^ s.depthBits }
  /-- RET with a word on the stack -/
  | ret (hne : s.sp ≠ 399#16) (hhi : (s.sp + 1).toNat < 400) :
      WordEffect f s 11#4 { s with sp := s.sp + 1, ip := s.mem.get (s.sp + 1).toNat }
  /-- STORE -/
  | store : WordEffect f s 14#4 (s.memWrite (s.address f) (s.operand1 f))
  /-- HALT, the reserved opcode, and the stops of DIV, CALL and RET -/
  | stop {op : BitVec 4} {r : StopReason} (hop : StopCause f s op r) : WordEffect f s op (s.raise r)

theorem wordEffect_of_exec_instrOf {m : Opcode} (h : exec (instrOf m f) s = .next t) :
    WordEffect f s (opmap m) t := by
  cases m with
  | nop => obtain rfl := Host.Outcome.next.inj h; exact .nothing (.inl rfl)
  | mov => obtain rfl := Host.Outcome.next.inj h; exact .move _ (.inl rfl)
  | add => obtain rfl := Host.Outcome.next.inj h; exact .arith _ _ (.inl rfl)
  | sub => obtain rfl := Host.Outcome.next.inj h; exact .arith _ _ (.inr (.inl rfl))
  | and => obtain rfl := Host.Outcome.next.inj h; exact .logic _ (.inl rfl)
  | or => obtain rfl := Host.Outcome.next.inj h; exact .logic _ (.inr (.inl rfl))
  | mul => obtain rfl := Host.Outcome.next.inj h; exact .arith _ _ (.inr (.inr rfl))
  | div =>
    obtain rfl := Host.Outcome.next.inj ((execDiv_eq f).symm.trans h)
    split_ifs with h0
    · exact .stop ⟨rfl, h0⟩
    · exact .logic _ (.inr (.inr ⟨rfl, h0⟩))
  | jmp => obtain rfl := Host.Outcome.next.inj h; exact .jump (.inl rfl)
  | jz =>
    obtain rfl := Host.Outcome.next.inj ((execJz_eq f).symm.trans h)
    split_ifs with hz
    · exact .jump (.inr ⟨rfl, hz⟩)
    · exact .nothing (.inr ⟨rfl, eq_false_of_ne_true hz⟩)
  | call =>
    obtain ⟨h0, rfl⟩ | ⟨h0, h1, rfl⟩ := (execCall_next f).mp h
    · exact .stop ⟨rfl, h0⟩
    · exact .call h0 h1
  | ret =>
    obtain ⟨h0, rfl⟩ | ⟨h0, h1, rfl⟩ := (execRet_next f).mp h
    · exact .stop ⟨rfl, h0⟩
    · exact .ret h0 h1
  | halt => obtain rfl := Host.Outcome.next.inj h; exact .stop (r := .halt) rfl
  | load => obtain rfl := Host.Outcome.next.inj h; exact .move _ (.inr rfl)
  | store => obtain rfl := Host.Outcome.next.inj h; exact .store

theorem wordEffect_of_exec_reserved (h : exec (.reserved15 f) s = .next t) :
    WordEffect f s reservedOpcode t := by
  obtain rfl := Host.Outcome.next.inj h
  exact .stop (r := .unimplementedInstruction) rfl

/-- R122 to R124: a step that fetches `w` does one of the things its opcode can do, from the state with IP advanced. -/
theorem wordEffect_of_step (hf : s.Fetches w) (h : step s = .next t) :
    WordEffect (decodeFields w).2 s.advance (w.extractLsb' 12 4) t := by
  rw [step_of_fetches hf] at h
  change WordEffect _ _ (decodeFields w).1 t
  obtain ⟨m, hop, hi⟩ | ⟨hop, hi⟩ := decodeWord_forms w
  · rw [hop]
    exact wordEffect_of_exec_instrOf (hi ▸ h)
  · rw [hop]
    exact wordEffect_of_exec_reserved (hi ▸ h)

/-! ## Frames: what each opcode leaves unchanged -/

theorem WordEffect.flags_eq (h : WordEffect f s op t)
    (hop : op ∉ [2#4, 3#4, 4#4, 5#4, 6#4, 7#4]) : t.flags = s.flags := by
  cases h with
  | arith _ _ hw => exact absurd (by rcases hw with rfl | rfl | rfl <;> decide) hop
  | logic _ hw => exact absurd (by rcases hw with rfl | rfl | ⟨rfl, -⟩ <;> decide) hop
  | store => simp
  | _ => rfl

theorem WordEffect.ov_cy_eq (h : WordEffect f s op t) (hop : op ∉ [2#4, 3#4, 6#4]) :
    t.flags.ov = s.flags.ov ∧ t.flags.cy = s.flags.cy := by
  cases h with
  | arith _ _ hw => exact absurd (by rcases hw with rfl | rfl | rfl <;> decide) hop
  | store => simp
  | _ => exact ⟨rfl, rfl⟩

/-- R11: the register write table. -/
theorem WordEffect.reg_ne (h : WordEffect f s op t) {j : RegNum} (hj : t.reg j ≠ s.reg j) :
    j = f.reg1 ∧ op ∈ [1#4, 2#4, 3#4, 4#4, 5#4, 6#4, 7#4, 13#4] := by
  have only_dst (v : Word) (h : (s.setReg f.reg1 v).reg j ≠ s.reg j) : j = f.reg1 := by
    by_contra hne
    exact h (s.reg_setReg_ne _ _ v hne)
  cases h with
  | move v hw => exact ⟨only_dst v hj, by rcases hw with rfl | rfl <;> decide⟩
  | arith v _ hw => exact ⟨only_dst v hj, by rcases hw with rfl | rfl | rfl <;> decide⟩
  | logic v hw => exact ⟨only_dst v hj, by rcases hw with rfl | rfl | ⟨rfl, -⟩ <;> decide⟩
  | store => exact absurd (s.reg_memWrite _ _ j) hj
  | _ => exact absurd rfl hj

theorem WordEffect.sp_eq (h : WordEffect f s op t) (hop : op ∉ [10#4, 11#4]) : t.sp = s.sp := by
  cases h with
  | call => exact absurd (by decide) hop
  | ret => exact absurd (by decide) hop
  | store => simp
  | _ => rfl

theorem WordEffect.depth_eq (h : WordEffect f s op t) (hop : op ≠ 10#4) : t.depth = s.depth := by
  cases h with
  | call => exact absurd rfl hop
  | store => simp
  | _ => rfl

theorem WordEffect.ip_eq (h : WordEffect f s op t) (hop : op ∉ [8#4, 9#4, 10#4, 11#4]) :
    t.ip = s.ip := by
  cases h with
  | jump hw => exact absurd (by rcases hw with rfl | ⟨rfl, -⟩ <;> decide) hop
  | call => exact absurd (by decide) hop
  | ret => exact absurd (by decide) hop
  | store => simp
  | _ => rfl

/-- R165: only RET takes IP from anywhere but the immediate. -/
theorem WordEffect.ip_eq_or_imm (h : WordEffect f s op t) (hop : op ≠ 11#4) :
    t.ip = s.ip ∨ t.ip = immWord f := by
  cases h with
  | jump => exact .inr rfl
  | call => exact .inr rfl
  | ret => exact absurd rfl hop
  | store => exact .inl (by simp)
  | _ => exact .inl rfl

theorem WordEffect.out_eq (h : WordEffect f s op t) (hop : op ≠ 14#4) : t.out = s.out := by
  cases h with
  | store => exact absurd rfl hop
  | _ => rfl

/-! ## The invariant -/

theorem StopCause.reason_ne_none {r : StopReason} (h : StopCause f s op r) : r ≠ .none := by
  rintro rfl
  exact h

theorem State.Inv.raise (h : s.Inv) {r : StopReason} (hr : r ≠ .none) : (s.raise r).Inv := by
  obtain ⟨hsp, -, hmem, hdepth⟩ := h
  exact ⟨hsp, by simp [hr], hmem, hdepth⟩

/-- R131: every instruction of format F keeps the invariant. -/
theorem WordEffect.inv (h : WordEffect f s op t) (hs : s.Inv) : t.Inv := by
  obtain ⟨hsp, hrun, hmem, hdepth⟩ := id hs
  cases h with
  | call hlo hhi =>
    exact ⟨by bv_omega, hrun, Memory.wf_set _ hmem hhi, Nat.mod_lt _ (Nat.two_pow_pos _)⟩
  | ret _ hhi => exact ⟨Nat.le_of_lt_succ hhi, hrun, hmem, hdepth⟩
  | store => exact ⟨by simpa, by simpa, s.wf_memWrite _ _ hmem, by simpa⟩
  | stop hop => exact hs.raise hop.reason_ne_none
  | _ => exact hs

theorem reset_inv_of_mem {m : Memory} (h : m.wf = true) : State.Inv { State.reset with mem := m } := by
  obtain ⟨hsp, hrun, -, hdepth⟩ := (by decide : State.reset.Inv)
  exact ⟨hsp, hrun, h, hdepth⟩

theorem exec_keeps_inv {i : Instr} (hs : s.Inv) (h : exec i s = .next t) : t.Inv := by
  obtain ⟨m, f, rfl⟩ | ⟨f, rfl⟩ | ⟨g, rfl⟩ := instr_forms i
  · exact (wordEffect_of_exec_instrOf h).inv hs
  · exact (wordEffect_of_exec_reserved h).inv hs
  · obtain rfl := Host.Outcome.next.inj ((exec_aluInstr g).symm.trans h)
    exact hs

theorem execCall_completes (f : Fields) (hsp : s.sp.toNat ≤ 399) : ∃ t, execCall f s = .next t := by
  by_cases h0 : s.sp.toNat = 0
  · exact ⟨_, (execCall_next f).mpr (.inl ⟨h0, rfl⟩)⟩
  · exact ⟨_, (execCall_next f).mpr (.inr ⟨h0, by omega, rfl⟩)⟩

theorem execRet_completes (f : Fields) (hsp : s.sp.toNat ≤ 399) : ∃ t, execRet f s = .next t := by
  by_cases h0 : s.sp = 399#16
  · exact ⟨_, (execRet_next f).mpr (.inl ⟨h0, rfl⟩)⟩
  · exact ⟨_, (execRet_next f).mpr (.inr ⟨h0, by bv_omega, rfl⟩)⟩

/-- R33, R220: with SP in range every instruction answers a next state. -/
theorem exec_completes (i : Instr) (hsp : s.sp.toNat ≤ 399) : ∃ t, exec i s = .next t := by
  cases i with
  | jz f => exact ⟨_, execJz_eq f⟩
  | div f => exact ⟨_, execDiv_eq f⟩
  | call f => exact execCall_completes f hsp
  | ret f => exact execRet_completes f hsp
  | _ => exact ⟨_, rfl⟩

/-- R125, R131: from the invariant a step answers a next state, and the invariant holds there. -/
theorem step_completes_inv (hs : s.Inv) : ∃ t, step s = .next t ∧ t.Inv := by
  obtain ⟨d, hd⟩ | ⟨hd, hr⟩ | ⟨hd, hr, hip⟩ | ⟨w, hf⟩ := step_situations s
  · exact ⟨_, step_of_drive hd, hs⟩
  · exact ⟨_, step_of_halted hd hr, hs⟩
  · exact ⟨_, step_of_fetch_out_of_range hd hr hip, hs.raise (by decide)⟩
  · have hadv : s.advance.Inv := hs
    obtain ⟨t, ht⟩ := exec_completes (decodeWord w) hadv.1
    exact ⟨t, (step_of_fetches hf).trans ht, exec_keeps_inv hadv ht⟩

theorem run_completes_inv (k : Nat) (hs : s.Inv) :
    ∃ t, Sys2Proof.core.run k s = .next t ∧ t.Inv := by
  induction k generalizing s with
  | zero => exact ⟨s, rfl, hs⟩
  | succ k ih =>
    obtain ⟨u, hu, hinv⟩ := step_completes_inv hs
    rw [core_run_succ hu]
    exact ih hinv

/-! ## The stack's slots -/

/-- R13, R162: CALL moves SP one down, or not at all from 0, and the word it writes is the slot SP, never word 0. -/
theorem execCall_slot (f : Fields) (hs : s.Inv) :
    ∃ t, execCall f s = .next t ∧ t.sp.toNat = s.sp.toNat - 1 ∧
      ∀ a, t.mem.get a ≠ s.mem.get a → a = s.sp.toNat ∧ 1 ≤ a ∧ a ≤ 399 := by
  obtain ⟨hsp, -, hmem, -⟩ := hs
  obtain ⟨t, ht⟩ := execCall_completes f hsp
  refine ⟨t, ht, ?_⟩
  obtain ⟨h0, rfl⟩ | ⟨h0, h1, rfl⟩ := (execCall_next f).mp ht
  · exact ⟨by simp [h0], fun a ha => absurd rfl ha⟩
  · refine ⟨by bv_omega, fun a ha => ?_⟩
    have hslot : a = s.sp.toNat := by
      by_contra hne
      exact ha (by rw [Memory.get_set _ _ hmem, if_neg hne])
    omega

/-- R13, R163: RET moves SP one up, or not at all from 399, leaves the memory, and takes IP from a slot 1 to 399. -/
theorem execRet_slot (f : Fields) (hsp : s.sp.toNat ≤ 399) :
    ∃ t, execRet f s = .next t ∧ t.sp.toNat = min (s.sp.toNat + 1) 399 ∧ t.mem = s.mem ∧
      (t.sp ≠ s.sp → 1 ≤ t.sp.toNat ∧ t.sp.toNat ≤ 399 ∧ t.ip = s.mem.get t.sp.toNat) := by
  obtain ⟨t, ht⟩ := execRet_completes f hsp
  refine ⟨t, ht, ?_⟩
  obtain ⟨h0, rfl⟩ | ⟨h0, h1, rfl⟩ := (execRet_next f).mp ht
  · exact ⟨by simp [h0], rfl, fun h => absurd rfl h⟩
  · have hadd : (s.sp + 1).toNat = s.sp.toNat + 1 := by bv_omega
    refine ⟨?_, rfl, fun _ => ⟨?_, ?_, rfl⟩⟩ <;> simp only [hadd] <;> omega

/-! ## What no rule reads -/

/-- An outcome with what no rule reads forgotten of its next state. -/
def unreadOutcome (o : Host.Outcome State Fault Refusal) : Host.Outcome State Fault Refusal :=
  match o with
  | .next t => .next t.unread
  | .fault e => .fault e
  | .refused r => .refused r

theorem unread_memWrite (a v : Word) : (s.memWrite a v).unread = (s.unread.memWrite a v).unread := by
  unfold State.memWrite State.emit
  split_ifs <;> rfl

theorem unread_execJz (f : Fields) :
    unreadOutcome (execJz f s) = unreadOutcome (execJz f s.unread) := by
  have hz : s.unread.flags.zr = s.flags.zr := rfl
  rw [execJz_eq, execJz_eq, hz]
  split_ifs <;> rfl

theorem unread_execDiv (f : Fields) :
    unreadOutcome (execDiv f s) = unreadOutcome (execDiv f s.unread) := by
  have hdivisor : s.unread.operand2 f = s.operand2 f := rfl
  rw [execDiv_eq, execDiv_eq, hdivisor]
  split_ifs <;> rfl

theorem unread_execCall (f : Fields) :
    unreadOutcome (execCall f s) = unreadOutcome (execCall f s.unread) := by
  by_cases hsp : 400 ≤ s.sp.toNat
  · rw [(execCall_fault f).mpr ⟨hsp, rfl⟩, (execCall_fault (s := s.unread) f).mpr ⟨hsp, rfl⟩]
    rfl
  · by_cases h0 : s.sp.toNat = 0
    · rw [(execCall_next f).mpr (.inl ⟨h0, rfl⟩), (execCall_next (s := s.unread) f).mpr (.inl ⟨h0, rfl⟩)]
      rfl
    · rw [(execCall_next f).mpr (.inr ⟨h0, by omega, rfl⟩),
        (execCall_next (s := s.unread) f).mpr (.inr ⟨h0, Nat.lt_of_not_le hsp, rfl⟩)]
      rfl

theorem unread_execRet (f : Fields) :
    unreadOutcome (execRet f s) = unreadOutcome (execRet f s.unread) := by
  by_cases h0 : s.sp = 399#16
  · rw [(execRet_next f).mpr (.inl ⟨h0, rfl⟩), (execRet_next (s := s.unread) f).mpr (.inl ⟨h0, rfl⟩)]
    rfl
  · by_cases hsp : 400 ≤ (s.sp + 1).toNat
    · rw [(execRet_fault f).mpr ⟨h0, hsp, rfl⟩, (execRet_fault (s := s.unread) f).mpr ⟨h0, hsp, rfl⟩]
      rfl
    · rw [(execRet_next f).mpr (.inr ⟨h0, Nat.lt_of_not_le hsp, rfl⟩),
        (execRet_next (s := s.unread) f).mpr (.inr ⟨h0, Nat.lt_of_not_le hsp, rfl⟩)]
      rfl

/-- No instruction's meaning reads what `State.unread` forgets. -/
theorem unread_exec (i : Instr) (s : State) :
    unreadOutcome (exec i s) = unreadOutcome (exec i s.unread) := by
  cases i with
  | jz f => exact unread_execJz f
  | div f => exact unread_execDiv f
  | call f => exact unread_execCall f
  | ret f => exact unread_execRet f
  | store f => exact congrArg Host.Outcome.next (unread_memWrite _ _)
  | _ => rfl

/-- R14, R16, R18: a step does not read what `State.unread` forgets. -/
theorem unread_step (s : State) : unreadOutcome (step s) = unreadOutcome (step s.unread) := by
  obtain ⟨d, hd⟩ | ⟨hd, hr⟩ | ⟨hd, hr, hip⟩ | ⟨w, hf⟩ := step_situations s
  · rw [step_of_drive hd, step_of_drive (s := s.unread) hd]
    rfl
  · rw [step_of_halted hd hr, step_of_halted (s := s.unread) hd hr]
    rfl
  · rw [step_of_fetch_out_of_range hd hr hip, step_of_fetch_out_of_range (s := s.unread) hd hr hip]
    rfl
  · rw [step_of_fetches hf, step_of_fetches (s := s.unread) hf]
    exact unread_exec (decodeWord w) s.advance

theorem unreadOutcome_eq_next {o : Host.Outcome State Fault Refusal}
    (h : unreadOutcome o = .next t) : ∃ u, o = .next u ∧ t = u.unread := by
  cases o with
  | next u => exact ⟨u, rfl, (Host.Outcome.next.inj h).symm⟩
  | fault e => exact nomatch h
  | refused r => exact nomatch h

theorem unreadOutcome_eq_fault {o : Host.Outcome State Fault Refusal} {e : Fault}
    (h : unreadOutcome o = .fault e) : o = .fault e := by
  cases o with
  | next u => exact nomatch h
  | fault e' => exact h
  | refused r => exact nomatch h

theorem exec_ne_refused (i : Instr) (s : State) (r : Refusal) : exec i s ≠ .refused r := by
  cases i with
  | jz f => exact (execJz_eq f).trans_ne nofun
  | div f => exact (execDiv_eq f).trans_ne nofun
  | call f =>
    change execCall f s ≠ .refused r
    unfold execCall
    split_ifs
    · nofun
    · split <;> nofun
  | ret f =>
    change execRet f s ≠ .refused r
    unfold execRet
    split_ifs
    · nofun
    · split <;> nofun
  | _ => nofun

theorem step_ne_refused (s : State) (r : Refusal) : step s ≠ .refused r := by
  obtain ⟨d, hd⟩ | ⟨hd, hr⟩ | ⟨hd, hr, hip⟩ | ⟨w, hf⟩ := step_situations s
  · exact (step_of_drive hd).trans_ne nofun
  · exact (step_of_halted hd hr).trans_ne nofun
  · exact (step_of_fetch_out_of_range hd hr hip).trans_ne nofun
  · exact (step_of_fetches hf).trans_ne (exec_ne_refused _ _ r)

/-! ## Loading -/

/-- R211: reading after the loader's stores. -/
theorem Memory.get_fill {m : Memory} {a : Nat} {ws : List Word} (h : m.wf = true)
    (ha : a + ws.length ≤ Config.memWords) (i : Nat) :
    (Memory.fill m a ws).get i = if i < a then m.get i else (ws[i - a]?).getD (m.get i) := by
  induction ws generalizing m a with
  | nil => simp [Memory.fill]
  | cons w ws ih =>
    simp only [List.length_cons] at ha
    rw [Memory.fill, ih (Memory.wf_set w h (by omega)) (by omega), Memory.get_set w i h]
    obtain hlt | rfl | hgt := Nat.lt_trichotomy i a
    · rw [if_pos (by omega), if_neg (by omega), if_pos hlt]
    · simp
    · rw [if_neg (by omega), if_neg (by omega), if_neg (by omega),
        show i - a = (i - (a + 1)) + 1 by omega, List.getElem?_cons_succ]

/-! ## The obligations -/

/-- Settles O57: a step commutes with forgetting what no rule reads. -/
theorem unreadStateInfluencesNothing : Obligations.UnreadStateInfluencesNothing := by
  intro s s' hss
  have same : unreadOutcome (step s) = unreadOutcome (step s') := by
    rw [unread_step s, hss, ← unread_step s']
  refine ⟨fun t ht => ?_, fun e he => ?_, step_ne_refused s⟩
  · rw [ht] at same
    exact unreadOutcome_eq_next same.symm
  · rw [he] at same
    exact unreadOutcome_eq_fault same.symm

/-- Settles O18: the invariant is kept by every instruction and bounds the slots CALL and RET use. -/
theorem stackAccessesStayInMemory : Obligations.StackAccessesStayInMemory := by
  refine ⟨fun i s hs => ?_, fun f s hs => execCall_slot f hs, fun f s hs => execRet_slot f hs.1,
    fun k s hs => run_completes_inv k hs⟩
  obtain ⟨t, ht⟩ := exec_completes i hs.1
  exact ⟨t, ht, (exec_keeps_inv hs ht).1⟩

/-- Settles O43: the loader changes the memory of the reset state only, and that as `Memory.get_fill` says. -/
theorem loadPlacesTheProgram : Obligations.LoadPlacesTheProgram := by
  refine ⟨fun p hp => ?_, fun p hp => if_neg (Nat.not_le.mpr hp)⟩
  have hlen : 0 + p.length ≤ Config.memWords := by simpa using hp
  refine ⟨_, if_pos hp, reset_inv_of_mem (Memory.wf_fill State.reset_wf hlen), rfl, fun i => ?_⟩
  simpa [State.reset, Memory.unlisted] using Memory.get_fill State.reset_wf hlen i

/-- Settles O49, by the frames of what each opcode can do. -/
theorem flagsAreWrittenOnlyByArithmeticAndLogic :
    Obligations.FlagsAreWrittenOnlyByArithmeticAndLogic := by
  intro s t w hf h
  have eff := wordEffect_of_step hf h
  refine ⟨eff.flags_eq, fun hop => eff.ov_cy_eq fun hw => ?_⟩
  have disjoint : ∀ op : BitVec 4, op ∈ [4#4, 5#4, 7#4] → op ∉ [2#4, 3#4, 6#4] := by decide
  exact disjoint _ hop hw

/-- Settles O50, by the register write table. -/
theorem onlyTheDestinationRegisterIsWritten : Obligations.OnlyTheDestinationRegisterIsWritten :=
  fun _ _ _ _ hf h hj => (wordEffect_of_step hf h).reg_ne hj

/-- Settles O52, by the frames of SP, DEPTH and IP. -/
theorem controlStateHasItsWriters : Obligations.ControlStateHasItsWriters := by
  intro s t w hf h
  have eff := wordEffect_of_step hf h
  refine ⟨eff.sp_eq, eff.depth_eq, eff.ip_eq, fun hop => eff.ip_eq_or_imm fun hret => ?_⟩
  rw [hret] at hop
  exact absurd hop (by decide)

/-- Settles O53: a STORE emits as `State.emit` says, and OUT is in the frame of every other opcode. -/
theorem onlyAStoreToThePortEmits : Obligations.OnlyAStoreToThePortEmits := by
  intro s t w hf h
  by_cases hop : w.extractLsb' 12 4 = 14#4
  · rw [step_of_fetches hf, decodeWord_of_opcode (m := .store) hop] at h
    obtain rfl := Host.Outcome.next.inj h
    rw [State.memWrite_out, State.emit_out]
    simp only [hop, true_and]
    rfl
  · rw [if_neg (fun h => hop h.1)]
    exact (wordEffect_of_step hf h).out_eq hop

/-- Settles O42, by evaluating the reset state; the registers are one replicated vector. -/
theorem resetValues : Obligations.ResetValues := by
  refine ⟨fun i => ?_, rfl, rfl, rfl, rfl, rfl, rfl, fun a => rfl, rfl⟩
  simp [State.reg_eq, State.reset]

end Sys2Proof.Machine

/-!
PROOFS. The statements on the memory (20_memory.md): what a bounded write does and what is read after it, which word a step
can write, OUT over a run, and the word stored at the next instruction's address.
-/

namespace Sys2Proof.Machine

variable {s t : State} {w : Word} {f : Fields} {op : BitVec 4}

/-! ## Reading after writing -/

theorem Memory.eq_of_get_set_ne {m : Memory} {a c : Nat} {v : Word} (hm : m.wf = true)
    (h : (m.set a v).get c ≠ m.get c) : c = a := by
  by_contra hne
  exact h (by rw [Memory.get_set _ _ hm, if_neg hne])

/-- R32: a bounded write changes the memory and OUT only, and OUT at the port only. -/
theorem State.memWrite_eq (s : State) (a v : Word) :
    s.memWrite a v =
      { s with
        mem := (s.memWrite a v).mem
        out := if a.toNat = 32 then s.out ++ [v.setWidth 8] else s.out } := by
  rw [State.memWrite_mem]
  unfold State.memWrite State.emit Config.memWords Config.portAddr
  split_ifs <;> rfl

/-- R32: what the memory holds at any address after a bounded write. -/
theorem State.memWrite_get (a v : Word) (c : Nat) (hm : s.mem.wf = true) :
    (s.memWrite a v).mem.get c = if c = a.toNat ∧ a.toNat < 400 then v else s.mem.get c := by
  rw [State.memWrite_mem]
  by_cases ha : a.toNat < 400
  · simp [ha, Memory.get_set v c hm]
  · simp [ha]

/-- R31, R32: what a bounded read answers after a bounded write. -/
theorem State.memRead_memWrite (a v b : Word) (hm : s.mem.wf = true) :
    (s.memWrite a v).memRead b = if b = a ∧ a.toNat < 400 then v else s.memRead b := by
  have same_address : b.toNat = a.toNat ↔ b = a := BitVec.toNat_inj
  simp only [State.memRead, State.memWrite_get a v _ hm, same_address]
  by_cases hb : b = a
  · subst hb
    by_cases hlt : b.toNat < 400 <;> simp [hlt]
  · simp [hb]

/-! ## What a step does to the memory and to OUT -/

/-- R36, R38: only STORE and CALL write a word, each at its own address. -/
theorem WordEffect.mem_get_ne (h : WordEffect f s op t) (hm : s.mem.wf = true) {a : Nat}
    (ha : t.mem.get a ≠ s.mem.get a) :
    (op = 14#4 ∧ a = (s.address f).toNat ∧ a < 400) ∨
      (op = 10#4 ∧ a = s.sp.toNat ∧ 1 ≤ a ∧ a < 400) := by
  cases h with
  | store =>
    rw [State.memWrite_get _ _ _ hm, ite_ne_right_iff] at ha
    obtain ⟨⟨rfl, hlt⟩, -⟩ := ha
    exact .inl ⟨rfl, rfl, hlt⟩
  | call hlo hhi =>
    obtain rfl := Memory.eq_of_get_set_ne hm ha
    exact .inr ⟨rfl, rfl, Nat.one_le_iff_ne_zero.mpr hlo, hhi⟩
  | _ => exact absurd rfl ha

theorem State.out_prefix_memWrite (s : State) (a v : Word) : s.out <+: (s.memWrite a v).out := by
  rw [State.memWrite_out, State.emit_out]
  split_ifs
  · exact List.prefix_append _ _
  · exact List.prefix_rfl

theorem WordEffect.out_prefix (h : WordEffect f s op t) : s.out <+: t.out := by
  cases h with
  | store => exact s.out_prefix_memWrite _ _
  | _ => exact List.prefix_rfl

/-- R42: a step leaves the bytes already emitted at the front of OUT. -/
theorem step_out_prefix (h : step s = .next t) : s.out <+: t.out := by
  obtain ⟨d, hd⟩ | ⟨hd, hr⟩ | ⟨hd, hr, hip⟩ | ⟨w, hf⟩ := step_situations s
  · obtain rfl := Host.Outcome.next.inj ((step_of_drive hd).symm.trans h)
    exact List.prefix_rfl
  · obtain rfl := Host.Outcome.next.inj ((step_of_halted hd hr).symm.trans h)
    exact List.prefix_rfl
  · obtain rfl := Host.Outcome.next.inj ((step_of_fetch_out_of_range hd hr hip).symm.trans h)
    exact List.prefix_rfl
  · exact (wordEffect_of_step hf h).out_prefix

/-! ## STORE -/

/-- R122, R176: the step that runs a STORE. -/
theorem step_of_store (hf : s.Fetches w) (hop : w.extractLsb' 12 4 = 14#4) :
    step s = .next
      (s.advance.memWrite (s.reg (w.extractLsb' 6 3)) (s.reg (w.extractLsb' 9 3))) := by
  rw [step_of_fetches hf, decodeWord_of_opcode (m := .store) hop]
  rfl

/-- R41: after a bounded write at IP, the engine fetches the word written. -/
theorem fetches_memWrite_ip (v : Word) (hm : s.mem.wf = true) (hr : s.running = true)
    (hd : s.alu.drive = none) (hip : s.ip.toNat < 400) : (s.memWrite s.ip v).Fetches v := by
  refine ⟨?_, ?_, ?_, ?_⟩
  · rwa [State.memWrite_running]
  · rwa [State.memWrite_alu]
  · rwa [State.memWrite_ip]
  · rw [State.memWrite_ip, State.memWrite_get _ _ _ hm, if_pos ⟨rfl, hip⟩]

/-! ## The obligations -/

/-- Settles O21; the first clause is the definition of the bounded read. -/
theorem memReadAndMemWriteAreTotal : Obligations.MemReadAndMemWriteAreTotal :=
  ⟨fun _ _ => rfl, State.memWrite_eq, fun _ a v b hm => State.memRead_memWrite a v b hm⟩

/-- Settles O51, by the write table of the memory. -/
theorem onlyStoreAndCallWriteOneWord : Obligations.OnlyStoreAndCallWriteOneWord :=
  fun _ _ _ _ hm hf h ha => (wordEffect_of_step hf h).mem_get_ne hm ha

/-- Settles O54, by induction on the number of steps. -/
theorem outputOnlyGrows : Obligations.OutputOnlyGrows := by
  intro k
  induction k with
  | zero =>
    intro s t h
    obtain rfl := Host.Outcome.next.inj h
    exact List.prefix_rfl
  | succ k ih =>
    intro s t h
    obtain ⟨u, hu, hrest⟩ := core_run_succ_next h
    exact (step_out_prefix hu).trans (ih u t hrest)

/-- Settles O56: the STORE leaves IP at the address it writes. -/
theorem storedWordIsFetchedNext : Obligations.StoredWordIsFetchedNext := by
  intro s w hm hf hop hip ha
  have haddr : s.reg (w.extractLsb' 6 3) = s.advance.ip := by
    rw [State.advance_ip]
    bv_omega
  have hlt : s.advance.ip.toNat < 400 := by rwa [← haddr, ha]
  have hstep := step_of_store hf hop
  rw [haddr] at hstep
  obtain ⟨hr, hd, -, -⟩ := hf
  have hfetch := fetches_memWrite_ip (s := s.advance) (s.reg (w.extractLsb' 9 3)) hm hr hd hlt
  exact ⟨_, hstep, hfetch, step_of_fetches hfetch⟩

end Sys2Proof.Machine

/-!
PROOFS. The statements on the encoding (30_encoding.md): the four fields tile the word, so packing and taking apart
undo each other; with the two tables (opcodes and control codes) that makes decode and encode inverse, and the
assembler's lines are the canonical instructions written down.
-/

namespace Sys2Proof

open Machine

/-! ## The four fields tile the word (R51) -/

/-- R53: masking the arguments is all the encoder does before it packs. -/
theorem encodeFields_eq_packWord (op r1 r2 imm : Nat) :
    encodeFields op r1 r2 imm =
      packWord (BitVec.ofNat 4 op) ⟨BitVec.ofNat 3 r1, BitVec.ofNat 3 r2, BitVec.ofNat 6 imm⟩ := by
  simp only [packWord, encodeFields, BitVec.ofNat_toNat, BitVec.setWidth_eq]

theorem encodeFields_opmap (m : Opcode) (r1 r2 imm : Nat) :
    encodeFields (opmap m).toNat r1 r2 imm =
      packWord (opmap m) ⟨BitVec.ofNat 3 r1, BitVec.ofNat 3 r2, BitVec.ofNat 6 imm⟩ := by
  rw [encodeFields_eq_packWord, BitVec.ofNat_toNat, BitVec.setWidth_eq]

@[simp] theorem decodeFields_packWord (op : BitVec 4) (f : Fields) :
    decodeFields (packWord op f) = (op, f) := by
  obtain ⟨a, b, i⟩ := f
  simp only [decodeFields, Prod.mk.injEq, Fields.mk.injEq, BitVec.toNat_eq, BitVec.extractLsb'_toNat,
    Nat.shiftRight_eq_div_pow, packWord_toNat]
  omega

/-- R53, the converse. -/
@[simp] theorem packWord_decodeFields (w : Word) : packWord (decodeFields w).1 (decodeFields w).2 = w := by
  apply BitVec.eq_of_toNat_eq
  rw [packWord_toNat]
  simp only [decodeFields, BitVec.extractLsb'_toNat, Nat.shiftRight_eq_div_pow]
  omega

/-! ## Fields as masks -/

/-- The low `k` bits, as `BitVec` and as the spec write them. -/
theorem toNat_ofNat_eq_and (k n : Nat) : (BitVec.ofNat k n).toNat = n &&& (2 ^ k - 1) := by
  rw [BitVec.toNat_ofNat, Nat.and_two_pow_sub_one_eq_mod]

/-- R52: a field of a word, as a shift and a mask. -/
theorem extractLsb'_toNat_eq_and (w : Word) (start len : Nat) :
    (w.extractLsb' start len).toNat = (w.toNat >>> start) &&& (2 ^ len - 1) := by
  rw [BitVec.extractLsb'_toNat, Nat.and_two_pow_sub_one_eq_mod]

/-- R53: the formula of the spec; each field's place is the sum of the widths to its right. -/
theorem encodeFields_toNat_eq_or (op r1 r2 imm : Nat) :
    (encodeFields op r1 r2 imm).toNat =
      ((op &&& 0xF) <<< 12) ||| ((r1 &&& 0x7) <<< 9) ||| ((r2 &&& 0x7) <<< 6) ||| (imm &&& 0x3F) := by
  simp only [encodeFields, BitVec.toNat_append, toNat_ofNat_eq_and, Nat.shiftLeft_or_distrib,
    ← Nat.shiftLeft_add]
  rfl

/-! ## The two tables, encoded and decoded -/

theorem encode_instrOf (m : Opcode) (f : Fields) : encode (instrOf m f) = .word (packWord (opmap m) f) := by
  cases m <;> rfl

theorem encode_aluInstr (g : AluFn) : encode (aluInstr g) = .alu6 (aluCode g) := by
  cases g <;> rfl

@[simp] theorem decodeWord_packWord_opmap (m : Opcode) (f : Fields) :
    decodeWord (packWord (opmap m) f) = instrOf m f := by
  simp [decodeWord, opcodeOf_opmap]

@[simp] theorem decodeWord_packWord_reserved (f : Fields) :
    decodeWord (packWord reservedOpcode f) = .reserved15 f := by
  simp [decodeWord, opcodeOf_reserved]

/-- R73: a control code that selects a function is that function's code. -/
theorem aluFnOf_some {d : AluCode} {g : AluFn} (h : aluFnOf d = some g) : aluCode g = d :=
  beq_iff_eq.mp (List.find?_some (p := fun g => aluCode g == d) h)

theorem encode_decodeWord (w : Word) : encode (decodeWord w) = .word w := by
  obtain ⟨m, hop, hi⟩ | ⟨hop, hi⟩ := decodeWord_forms w
  · rw [hi, encode_instrOf, ← hop, packWord_decodeFields]
  · rw [hi, encode, ← hop, packWord_decodeFields]

theorem decode_encode (i : Instr) : decode (encode i) = .ok i := by
  obtain ⟨m, f, rfl⟩ | ⟨f, rfl⟩ | ⟨g, rfl⟩ := instr_forms i
  · rw [encode_instrOf, decode, decodeWord_packWord_opmap]
  · rw [encode, decode, decodeWord_packWord_reserved]
  · simp only [encode_aluInstr, decode, aluFnOf_aluCode]

theorem encode_of_decode {c : Code} {i : Instr} (h : decode c = .ok i) : encode i = c := by
  cases c with
  | word w =>
    obtain rfl := Except.ok.inj h
    exact encode_decodeWord w
  | alu6 d =>
    cases hg : aluFnOf d with
    | none => simp [decode, hg] at h
    | some g =>
      simp only [decode, hg, Except.ok.injEq] at h
      rw [← h, encode_aluInstr, aluFnOf_some hg]

/-! ## The assembler and the canonical instructions (R56, R59) -/

theorem instrOf_wf (m : Opcode) (f : Fields) : (instrOf m f).wf = f.unusedZero m := by
  cases m <;> rfl

theorem decodeWord_wf_iff (w : Word) :
    (decodeWord w).wf = true ↔ ∃ m f, f.unusedZero m = true ∧ w = packWord (opmap m) f := by
  constructor
  · intro h
    obtain ⟨m, hop, hi⟩ | ⟨-, hi⟩ := decodeWord_forms w
    · rw [hi, instrOf_wf] at h
      exact ⟨m, _, h, by rw [← hop, packWord_decodeFields]⟩
    · rw [hi] at h
      exact nomatch h
  · rintro ⟨m, f, hf, rfl⟩
    rw [decodeWord_packWord_opmap, instrOf_wf, hf]

/-- R59: the line of a mnemonic's form that writes the fields the mnemonic uses. -/
def Asm.ofFields (m : Opcode) (f : Fields) : Asm :=
  match m with
  | .nop | .ret | .halt => .bare m
  | .mov | .add | .sub => .regImm m f.reg1.toNat f.imm.toNat
  | .and | .or | .mul | .div | .load | .store => .regReg m f.reg1.toNat f.reg2.toNat
  | .jmp | .jz | .call => .target m f.imm.toNat

theorem Asm.ofFields_ne_literal (m : Opcode) (f : Fields) (v : Nat) : Asm.ofFields m f ≠ .literal v := by
  cases m <;> exact fun h => nomatch h

theorem Asm.ofFields_wf (m : Opcode) (f : Fields) : (Asm.ofFields m f).wf = true := by
  have h1 := f.reg1.isLt
  have h2 := f.reg2.isLt
  have h3 := f.imm.isLt
  cases m <;> simp [Asm.ofFields, Asm.wf] <;> omega

/-- What the line leaves out is assembled as 0, which a canonical instruction has there. -/
theorem assemble_ofFields {m : Opcode} {f : Fields} (h : f.unusedZero m = true) :
    assemble (Asm.ofFields m f) = some (packWord (opmap m) f) := by
  unfold assemble
  rw [if_pos (Asm.ofFields_wf m f)]
  cases m <;> simp only [Fields.unusedZero, Bool.and_eq_true, beq_iff_eq] at h <;>
    simp [Asm.ofFields, packWord, h]

/-- A line that assembles and is no literal leaves out the fields its mnemonic does not use. -/
theorem canonical_of_assemble {a : Asm} {w : Word} (hlit : ∀ v, a ≠ .literal v) (h : assemble a = some w) :
    ∃ m f, f.unusedZero m = true ∧ w = packWord (opmap m) f := by
  unfold assemble at h
  obtain ⟨hwf, hw⟩ := Option.ite_none_right_eq_some.mp h
  cases a with
  | bare m =>
    obtain rfl := Option.some.inj hw
    refine ⟨m, _, ?_, encodeFields_opmap m 0 0 0⟩
    simp only [Asm.wf, Bool.or_eq_true, beq_iff_eq] at hwf
    obtain (rfl | rfl) | rfl := hwf
    all_goals rfl
  | regImm m r imm =>
    obtain rfl := Option.some.inj hw
    refine ⟨m, _, ?_, encodeFields_opmap m r 0 imm⟩
    simp only [Asm.wf, Bool.and_eq_true, Bool.or_eq_true, beq_iff_eq] at hwf
    obtain ⟨⟨(rfl | rfl) | rfl, -⟩, -⟩ := hwf
    all_goals rfl
  | regReg m r q =>
    obtain rfl := Option.some.inj hw
    refine ⟨m, _, ?_, encodeFields_opmap m r q 0⟩
    simp only [Asm.wf, Bool.and_eq_true, Bool.or_eq_true, beq_iff_eq] at hwf
    obtain ⟨⟨((((rfl | rfl) | rfl) | rfl) | rfl) | rfl, -⟩, -⟩ := hwf
    all_goals rfl
  | target m imm =>
    obtain rfl := Option.some.inj hw
    refine ⟨m, _, ?_, encodeFields_opmap m 0 0 imm⟩
    simp only [Asm.wf, Bool.and_eq_true, Bool.or_eq_true, beq_iff_eq] at hwf
    obtain ⟨(rfl | rfl) | rfl, -⟩ := hwf
    all_goals rfl
  | literal v => exact absurd rfl (hlit v)

/-! ## The obligations -/

/-- Settles O3: packing and taking apart undo each other, and so do the two tables. -/
theorem decodeAndEncodeAgree : Obligations.DecodeAndEncodeAgree :=
  ⟨decode_encode, fun _ _ => encode_of_decode⟩

/-- Settles O2: the word of the arguments is the word of their masks, whose fields are the masks. -/
theorem encoderMasksAndDecoderInverts : Obligations.EncoderMasksAndDecoderInverts := by
  refine ⟨encodeFields_toNat_eq_or, fun op r1 r2 imm => ?_, packWord_decodeFields⟩
  rw [encodeFields_eq_packWord, decodeFields_packWord]
  exact ⟨toNat_ofNat_eq_and 4 op, toNat_ofNat_eq_and 3 r1, toNat_ofNat_eq_and 3 r2, toNat_ofNat_eq_and 6 imm⟩

/-- Settles O7: a line of one of the four forms is a canonical instruction written down. -/
theorem assemblerWritesTheCanonicalWords : Obligations.AssemblerWritesTheCanonicalWords := by
  refine ⟨fun a w hlit h => (decodeWord_wf_iff w).mpr (canonical_of_assemble hlit h), fun w h => ?_, fun v => ?_⟩
  · obtain ⟨m, f, hf, rfl⟩ := (decodeWord_wf_iff w).mp h
    exact ⟨Asm.ofFields m f, Asm.ofFields_ne_literal m f, assemble_ofFields hf⟩
  · simp [assemble, Asm.wf]

/-- Settles O1: each field is a shift and a mask, and a word always decodes. -/
theorem decoderExtractsFixedBitFields : Obligations.DecoderExtractsFixedBitFields :=
  ⟨fun w => ⟨extractLsb'_toNat_eq_and w 12 4, extractLsb'_toNat_eq_and w 9 3, extractLsb'_toNat_eq_and w 6 3,
      extractLsb'_toNat_eq_and w 0 6⟩,
    fun w => ⟨decodeWord w, rfl⟩⟩

/-- Settles O4: each word is decoded, and `encode_of_decode` gives its encoding back. -/
theorem workedEncodingsDecode : Obligations.WorkedEncodingsDecode :=
  ⟨rfl, encode_of_decode rfl, rfl, encode_of_decode rfl, rfl, encode_of_decode rfl, rfl, encode_of_decode rfl,
    rfl, encode_of_decode rfl, rfl, encode_of_decode rfl, rfl, encode_of_decode rfl, rfl, encode_of_decode rfl⟩

/-- Settles O6: with the used fields equal, the meanings are the same function of the state. -/
theorem unusedFieldsAreIgnored : Obligations.UnusedFieldsAreIgnored := by
  rintro ⟨a, b, i⟩ ⟨a', b', i'⟩ s
  refine ⟨rfl, rfl, rfl, rfl, ?regImm, ?regReg, ?target⟩
  case regImm =>
    rintro rfl rfl
    exact ⟨rfl, rfl, rfl⟩
  case regReg =>
    rintro rfl rfl
    exact ⟨rfl, rfl, rfl, rfl, rfl, rfl⟩
  case target =>
    rintro rfl
    exact ⟨rfl, rfl, rfl⟩

end Sys2Proof

/-!
PROOFS. The statements on the ALU (40_alu.md): the ripple-carry adder adds, each function's outputs in the numbers of its
rule, what holds under every code (flags, condition, the generic pipeline), and who drives the ALU: its own rows, the
engine's ADD and MUL, a presented code.
-/

namespace Sys2Proof.Machine

variable {s : State} {d : AluCode} {g : AluFn} {x y out : Word}

/-! ## The ripple-carry adder (R75) -/

/-- One bit position's carry is the majority of its three inputs, which is how the library's carry goes on. -/
theorem fullAdderCarry_eq_atLeastTwo (a b c : Bool) : fullAdderCarry a b c = a.atLeastTwo b c := by
  cases a <;> cases b <;> cases c <;> rfl

theorem rippleCarry_eq_carry (a b : Word) (i : Nat) : rippleCarry a b i = BitVec.carry i a b false := by
  induction i with
  | zero => simp [rippleCarry]
  | succ k ih => rw [rippleCarry, ih, fullAdderCarry_eq_atLeastTwo, BitVec.carry_succ]

/-- Stage `k` of the cascade sets bit `k` and leaves the others alone. -/
theorem getLsbD_rippleSum (a b : Word) (n : Nat) {i : Nat} (hi : i < 16) :
    (rippleSum a b n).getLsbD i =
      (decide (i < n) && fullAdderSum (a.getLsbD i) (b.getLsbD i) (rippleCarry a b i)) := by
  induction n with
  | zero => simp [rippleSum]
  | succ k ih =>
    rw [rippleSum, BitVec.getLsbD_or, ih, BitVec.getLsbD_shiftLeft]
    obtain hlt | rfl | hgt := Nat.lt_trichotomy i k
    · simp [hlt, Nat.lt_succ_of_lt hlt]
    · simp [hi]
    · simp [Nat.not_lt.mpr hgt.le, Nat.not_lt.mpr hgt, Nat.sub_ne_zero_of_lt hgt]

theorem rippleSum_eq_add (a b : Word) : rippleSum a b 16 = a + b := by
  apply BitVec.eq_of_getLsbD_eq
  intro i hi
  simp only [getLsbD_rippleSum a b 16 hi, hi, rippleCarry_eq_carry, BitVec.getLsbD_add hi, fullAdderSum,
    decide_true, Bool.true_and, Bool.xor_assoc]

theorem rippleCarry_eq_decide (a b : Word) : rippleCarry a b 16 = decide (65536 ≤ a.toNat + b.toNat) := by
  have ha := Nat.mod_eq_of_lt a.isLt
  have hb := Nat.mod_eq_of_lt b.isLt
  simp only [rippleCarry_eq_carry, BitVec.carry, ha, hb]
  rfl

/-- What the spec marks as derived in R75: the cascade adds, and its carry out is the true one. -/
theorem add16_eq (a b : Word) : add16 a b = (a + b, decide (65536 ≤ a.toNat + b.toNat)) := by
  rw [add16, rippleSum_eq_add, rippleCarry_eq_decide]

/-! ## The flags -/

/-- R93: the sign-bit formula is signed overflow in numbers. -/
theorem addOverflow_eq (x y : Word) :
    addOverflow x y (x + y) = decide (x.toInt + y.toInt < -32768 ∨ 32767 < x.toInt + y.toInt) := by
  have formula : addOverflow x y (x + y) = x.saddOverflow y := (BitVec.saddOverflow_eq x y).symm
  rw [formula, BitVec.saddOverflow, ← Bool.decide_or, decide_eq_decide]
  omega

/-- R94: the sign-bit formula is signed overflow in numbers. -/
theorem subOverflow_eq (x y : Word) :
    subOverflow x y (x - y) = decide (x.toInt - y.toInt < -32768 ∨ 32767 < x.toInt - y.toInt) := by
  have formula : subOverflow x y (x - y) = x.ssubOverflow y := by
    rw [BitVec.ssubOverflow_eq, subOverflow]
    cases x.msb <;> cases y.msb <;> simp
  rw [formula, BitVec.ssubOverflow, ← Bool.decide_or, decide_eq_decide]
  omega

/-- R76, with the two flags of the result in the words of the function's rule. -/
theorem aluResult_eq {cy ov ng : Bool} {P : Prop} [Decidable P] (hz : out = 0#16 ↔ P)
    (hn : out.getLsbD 15 = ng) : aluResult out cy ov = ⟨out, ⟨decide P, ng, ov, cy⟩, .ok⟩ := by
  have zr : zeroFlag out = decide P := by rw [zeroFlag, Bool.beq_eq_decide_eq, decide_eq_decide, hz]
  rw [aluResult, zr, negFlag, BitVec.msb_eq_getLsbD_last, hn]

/-! ## The functions of one operand (R83 to R92) -/

theorem aluResult_self (v : Word) :
    aluResult v false false = ⟨v, ⟨decide (v = 0#16), v.getLsbD 15, false, false⟩, .ok⟩ :=
  aluResult_eq Iff.rfl rfl

theorem aluResult_not (v : Word) :
    aluResult (~~~v) false false =
      ⟨BitVec.ofNat 16 (0xFFFF - v.toNat), ⟨decide (v = 0xFFFF#16), !v.getLsbD 15, false, false⟩, .ok⟩ := by
  have hout : BitVec.ofNat 16 (0xFFFF - v.toNat) = ~~~v := by bv_omega
  rw [hout]
  exact aluResult_eq (by bv_omega) (by simp)

theorem aluResult_neg (v : Word) :
    aluResult (0#16 - v) false false =
      ⟨BitVec.ofInt 16 (-(v.toNat : Int)),
        ⟨decide (v.toNat = 0), (BitVec.ofInt 16 (-(v.toNat : Int))).getLsbD 15, false, false⟩, .ok⟩ := by
  have hout : BitVec.ofInt 16 (-(v.toNat : Int)) = 0#16 - v := by simp [BitVec.ofInt_neg]
  rw [hout]
  exact aluResult_eq (by bv_omega) rfl

theorem aluResult_dec (v : Word) :
    aluResult (v - 1#16) false false =
      ⟨BitVec.ofInt 16 ((v.toNat : Int) - 1),
        ⟨decide (v.toNat = 1), (BitVec.ofInt 16 ((v.toNat : Int) - 1)).getLsbD 15, false, false⟩, .ok⟩ := by
  have hout : BitVec.ofInt 16 ((v.toNat : Int) - 1) = v - 1#16 := by
    rw [Int.sub_eq_add_neg, BitVec.ofInt_add, BitVec.ofInt_neg, BitVec.ofInt_natCast, BitVec.ofNat_toNat,
      BitVec.setWidth_eq]
    exact (sub_eq_add_neg v 1#16).symm
  rw [hout]
  exact aluResult_eq (by bv_omega) rfl

theorem aluResult_inc (v : Word) :
    aluResult (add16 v 1#16).1 (add16 v 1#16).2 false =
      ⟨v + 1#16, ⟨decide (v = 0xFFFF#16), (v + 1#16).getLsbD 15, false, decide (v = 0xFFFF#16)⟩, .ok⟩ := by
  have carry : decide (65536 ≤ v.toNat + (1#16).toNat) = decide (v = 0xFFFF#16) := by
    rw [decide_eq_decide]
    bv_omega
  rw [add16_eq, carry]
  exact aluResult_eq (by bv_omega) rfl

/-! ## The functions of two operands (R93 to R99) -/

theorem aluFnAdd_eq (x y : Word) :
    aluFnAdd x y = ⟨x + y,
      ⟨decide (x + y = 0#16), (x + y).getLsbD 15,
        decide (x.toInt + y.toInt < -32768 ∨ 32767 < x.toInt + y.toInt),
        decide (65536 ≤ x.toNat + y.toNat)⟩, .ok⟩ := by
  rw [aluFnAdd, add16_eq, addOverflow_eq]
  exact aluResult_eq Iff.rfl rfl

/-- SUBYX is SUBXY with the operands exchanged, by definition. -/
theorem aluFnSubxy_eq (x y : Word) :
    aluFnSubxy x y = ⟨x - y,
      ⟨decide (x = y), (x - y).getLsbD 15,
        decide (x.toInt - y.toInt < -32768 ∨ 32767 < x.toInt - y.toInt),
        decide (x.toNat < y.toNat)⟩, .ok⟩ := by
  rw [aluFnSubxy, subOverflow_eq, borrowFlag]
  exact aluResult_eq sub_eq_zero rfl

theorem aluFnAnd_eq (x y : Word) :
    aluFnAnd x y = ⟨x &&& y,
      ⟨decide (x &&& y = 0#16), x.getLsbD 15 && y.getLsbD 15, false, false⟩, .ok⟩ :=
  aluResult_eq Iff.rfl BitVec.getLsbD_and

theorem aluFnOr_eq (x y : Word) :
    aluFnOr x y = ⟨x ||| y,
      ⟨decide (x = 0#16 ∧ y = 0#16), x.getLsbD 15 || y.getLsbD 15, false, false⟩, .ok⟩ :=
  aluResult_eq BitVec.or_eq_zero_iff BitVec.getLsbD_or

theorem aluFnMul_eq (x y : Word) :
    aluFnMul x y = ⟨x * y,
      ⟨decide (x.toNat * y.toNat % 65536 = 0), (x * y).getLsbD 15,
        decide (65535 < x.toNat * y.toNat), false⟩, .ok⟩ := by
  have low : BitVec.ofNat 16 (x.toNat * y.toNat) = x * y := by simp [BitVec.ofNat_mul]
  rw [aluFnMul, low]
  exact aluResult_eq (by simp [BitVec.toNat_eq]) rfl

/-- R99, the zero divisor: the one case in which a defined code does not report `ok`. -/
theorem aluFnDiv_zero (x : Word) : aluFnDiv x 0#16 = { aluResult 0#16 false true with cond := .divZero } := rfl

theorem aluFnDiv_of_ne_zero (x : Word) (hy : y ≠ 0#16) : aluFnDiv x y = aluResult (x / y) false false := by
  have hy' : y.toNat ≠ 0 := by bv_omega
  have quotient : BitVec.ofNat 16 (x.toNat / y.toNat) = x / y := by
    rw [← BitVec.toNat_udiv, BitVec.ofNat_toNat, BitVec.setWidth_eq]
  rw [aluFnDiv, if_neg hy', quotient]

theorem aluFnDiv_eq (x y : Word) :
    aluFnDiv x y =
      if y = 0#16 then ⟨0#16, ⟨true, false, true, false⟩, .divZero⟩
      else ⟨x / y, ⟨decide (x.toNat < y.toNat), (x / y).getLsbD 15, false, false⟩, .ok⟩ := by
  split_ifs with hy
  · rw [hy, aluFnDiv_zero]
    rfl
  · have hy' : y.toNat ≠ 0 := by bv_omega
    have hz : x / y = 0#16 ↔ x.toNat < y.toNat := by
      rw [BitVec.toNat_eq, BitVec.toNat_udiv, BitVec.toNat_zero, Nat.div_eq_zero_iff, or_iff_right hy']
    rw [aluFnDiv_of_ne_zero x hy]
    exact aluResult_eq hz rfl

/-! ## Every function, every code -/

/-- The two forms of a defined code's outputs: a divide by zero, or a result with its flags and `ok`. -/
theorem aluApply_forms (g : AluFn) (x y : Word) :
    ((g = .div ∧ y = 0#16) ∧ aluApply g x y = { aluResult 0#16 false true with cond := .divZero }) ∨
    (¬ (g = .div ∧ y = 0#16) ∧ ∃ out cy ov, aluApply g x y = aluResult out cy ov) := by
  cases g
  case div =>
    by_cases hy : y = 0#16
    · subst hy
      exact .inl ⟨⟨rfl, rfl⟩, aluFnDiv_zero x⟩
    · exact .inr ⟨fun h => hy h.2, _, _, _, aluFnDiv_of_ne_zero x hy⟩
  all_goals exact .inr ⟨(fun h => nomatch h.1), _, _, _, rfl⟩

/-- R76: of every defined code. -/
theorem aluApply_flags (g : AluFn) (x y : Word) :
    (aluApply g x y).flags.zr = zeroFlag (aluApply g x y).out ∧
      (aluApply g x y).flags.ng = negFlag (aluApply g x y).out := by
  obtain ⟨-, h⟩ | ⟨-, out, cy, ov, h⟩ := aluApply_forms g x y
  all_goals
    rw [h]
    exact ⟨rfl, rfl⟩

theorem aluApply_cond (g : AluFn) (x y : Word) :
    (aluApply g x y).cond = if g = .div ∧ y = 0#16 then .divZero else .ok := by
  obtain ⟨hd, h⟩ | ⟨hd, out, cy, ov, h⟩ := aluApply_forms g x y
  · rw [h, if_pos hd]
  · rw [h, if_neg hd]
    rfl

theorem aluCompute_cond_ok (x y : Word) (hg : g ≠ .div) : (aluCompute x y (aluCode g)).cond = .ok := by
  rw [aluCompute_aluCode, aluApply_cond, if_neg (fun h => hg h.1)]

theorem aluFnOf_eq_some_iff : aluFnOf d = some g ↔ d = aluCode g :=
  ⟨fun h => (aluFnOf_some h).symm, fun h => by rw [h, aluFnOf_aluCode]⟩

theorem aluFnOf_eq_none_iff : aluFnOf d = none ↔ ∀ g : AluFn, d ≠ aluCode g := by
  simp only [Option.eq_none_iff_forall_ne_some, ne_eq, aluFnOf_eq_some_iff]

theorem aluCode_inj {g' : AluFn} : aluCode g = aluCode g' ↔ g = g' := by
  rw [← aluFnOf_eq_some_iff, aluFnOf_aluCode, Option.some.injEq]

theorem aluCompute_of_undefined (x y : Word) (h : ∀ g : AluFn, d ≠ aluCode g) :
    aluCompute x y d = aluUndefined x y d := by
  rw [aluCompute, aluFnOf_eq_none_iff.mpr h]

theorem decode_aluCode (g : AluFn) : decode (.alu6 (aluCode g)) = .ok (aluInstr g) := by
  rw [← encode_aluInstr, decode_encode]

/-- R74: a control code is refused exactly if it selects no function. -/
theorem decode_alu6_refused_iff : decode (.alu6 d) = .error (.unimplementedAluCode d) ↔ aluFnOf d = none := by
  cases hg : aluFnOf d <;> simp [decode, hg]

/-! ## Who drives the ALU (R70, R104) -/

/-- An ALU row writes the outputs its code computes, and nothing else. -/
theorem exec_aluInstr_observes (g : AluFn) :
    exec (aluInstr g) s = .next (s.aluObserve (aluCompute s.alu.x s.alu.y (aluCode g))) := by
  rw [exec_aluInstr, aluCompute_aluCode, State.aluAnswer]

/-- R54: zero extension keeps the number. -/
theorem immWord_eq_ofNat (f : Fields) : immWord f = BitVec.ofNat 16 f.imm.toNat :=
  (BitVec.ofNat_toNat 16 f.imm).symm

/-! ## The generic pipeline (R101): complements do the work of increment, decrement and subtraction -/

theorem add_not_zero (a : Word) : a + ~~~0#16 = a - 1#16 := by bv_omega

theorem not_zero_add (a : Word) : ~~~0#16 + a = a - 1#16 := by bv_omega

theorem not_not_add (a b : Word) : ~~~(~~~a + b) = a - b := by bv_omega

theorem not_add_not (a b : Word) : ~~~(a + ~~~b) = b - a := by bv_omega

theorem not_not_add_not_zero (a : Word) : ~~~(~~~a + ~~~0#16) = a + 1#16 := by bv_omega

theorem not_not_zero_add_not (a : Word) : ~~~(~~~0#16 + ~~~a) = a + 1#16 := by bv_omega

theorem not_not_and_not (a b : Word) : ~~~(~~~a &&& ~~~b) = a ||| b := by
  rw [BitVec.not_and, BitVec.not_not, BitVec.not_not]

theorem and_not_zero (a : Word) : a &&& ~~~0#16 = a := by
  rw [BitVec.not_zero, BitVec.and_allOnes]

theorem not_zero_and (a : Word) : ~~~0#16 &&& a = a := by
  rw [BitVec.not_zero, BitVec.allOnes_and]

/-- R101: each textbook code's pipeline, written out by the code's six bits, is the function by one of the identities. -/
theorem aluPipeline_aluCode (x y : Word) (hmul : g ≠ .mul) (hdiv : g ≠ .div) :
    aluPipeline x y (aluCode g) = (aluApply g x y).out := by
  cases g with
  | zero | and => rfl
  | one => exact not_not_add_not_zero 0#16
  | minus1 => exact BitVec.add_zero (~~~0#16)
  | passx => exact and_not_zero x
  | passy => exact not_zero_and y
  | notx => exact congrArg (~~~ ·) (and_not_zero x)
  | noty => exact congrArg (~~~ ·) (not_zero_and y)
  | negx => exact not_add_not x 0#16
  | negy => exact not_not_add 0#16 y
  | incx => exact (not_not_add_not_zero x).trans (rippleSum_eq_add x 1#16).symm
  | incy => exact (not_not_zero_add_not y).trans (rippleSum_eq_add y 1#16).symm
  | decx => exact add_not_zero x
  | decy => exact not_zero_add y
  | add => exact (rippleSum_eq_add x y).symm
  | subxy => exact not_not_add x y
  | subyx => exact not_add_not x y
  | or => exact not_not_and_not x y
  | mul => exact absurd rfl hmul
  | div => exact absurd rfl hdiv

/-! ## The obligations -/

/-- Settles O27: negation and decrement, each of the operand that its code passes on. -/
theorem aluNegateAndDecrement : Obligations.AluNegateAndDecrement := fun x y =>
  ⟨(aluCompute_aluCode .negx x y).trans (aluResult_neg x), (aluCompute_aluCode .negy x y).trans (aluResult_neg y),
    (aluCompute_aluCode .decx x y).trans (aluResult_dec x), (aluCompute_aluCode .decy x y).trans (aluResult_dec y)⟩

/-- Settles O28: the adder's carry out of `v + 1` is 1 for 0xFFFF only, where the result is 0. -/
theorem aluIncrementCarriesOnlyFromAllOnes : Obligations.AluIncrementCarriesOnlyFromAllOnes := fun x y =>
  ⟨(aluCompute_aluCode .incx x y).trans (aluResult_inc x), (aluCompute_aluCode .incy x y).trans (aluResult_inc y)⟩

/-- Settles O29, by the adder's true carry and the sign-bit formula for overflow. -/
theorem aluAddCarryAndSignedOverflow : Obligations.AluAddCarryAndSignedOverflow := fun x y =>
  (aluCompute_aluCode .add x y).trans (aluFnAdd_eq x y)

/-- Settles O30: SUBYX is SUBXY with the operands exchanged; only the zero flag is written in the other order. -/
theorem aluSubtractBorrowAndSignedOverflow : Obligations.AluSubtractBorrowAndSignedOverflow := by
  intro x y
  refine ⟨(aluCompute_aluCode .subxy x y).trans (aluFnSubxy_eq x y), ?_⟩
  simp only [eq_comm (a := x)]
  exact (aluCompute_aluCode .subyx x y).trans (aluFnSubxy_eq y x)

/-- Settles O32, by the low half of the product and the quotient. -/
theorem aluMultiplyAndDivide : Obligations.AluMultiplyAndDivide := fun x y =>
  ⟨(aluCompute_aluCode .mul x y).trans (aluFnMul_eq x y), (aluCompute_aluCode .div x y).trans (aluFnDiv_eq x y)⟩

/-- Settles O33: the equations of R75 define the cascade, and `add16_eq` says what they come to. -/
theorem rippleAdderAddsWithTrueCarry : Obligations.RippleAdderAddsWithTrueCarry := by
  intro a b
  refine ⟨rfl, fun _ => rfl, fun i hi => ?sumBit, rfl, ?sum, ?carryOut⟩
  case sumBit => simp only [add16, getLsbD_rippleSum a b 16 hi, hi, fullAdderSum, decide_true, Bool.true_and]
  case sum => rw [add16_eq, BitVec.toNat_add]
  case carryOut => rw [add16_eq, decide_eq_true_iff]

/-- Settles O34: both flags are read off the result, and 0 has bit 15 clear. -/
theorem aluZeroAndNegativeFollowTheResult : Obligations.AluZeroAndNegativeFollowTheResult := by
  intro x y g
  rw [aluCompute_aluCode]
  obtain ⟨hz, hn⟩ := aluApply_flags g x y
  rw [hz, hn, zeroFlag, negFlag, beq_iff_eq]
  refine ⟨BitVec.toNat_eq, BitVec.msb_eq_getLsbD_last _, fun ⟨h0, h15⟩ => ?_⟩
  rw [h0] at h15
  exact absurd h15 (by decide)

/-- Settles O35: an undefined code has its own condition, and a defined one reports as `aluApply_cond` says. -/
theorem aluConditionIsExact : Obligations.AluConditionIsExact := by
  intro x y d
  by_cases hd : ∃ g : AluFn, d = aluCode g
  · obtain ⟨g, rfl⟩ := hd
    rw [aluCompute_aluCode, aluApply_cond, aluCode_inj]
    by_cases h : g = .div ∧ y = 0#16 <;> simp [h]
  · have undefined : ∀ g : AluFn, d ≠ aluCode g := not_exists.mp hd
    rw [aluCompute_of_undefined x y undefined]
    simp [aluUndefined, undefined]

/-- Settles O36, by the identities of the complement. -/
theorem pipelineComputesTheTextbookFunctions : Obligations.PipelineComputesTheTextbookFunctions :=
  fun x y _ hmul hdiv => (aluPipeline_aluCode x y hmul hdiv).symm

/-- Settles O5: the table's codes decode to their rows, and the other 44 are counted out. -/
theorem aluCodeTable : Obligations.AluCodeTable := by
  refine ⟨⟨decode_aluCode .zero, decode_aluCode .one, decode_aluCode .minus1, decode_aluCode .passx,
    decode_aluCode .passy, decode_aluCode .notx, decode_aluCode .noty, decode_aluCode .negx, decode_aluCode .negy,
    decode_aluCode .incx, decode_aluCode .incy, decode_aluCode .decx, decode_aluCode .decy, decode_aluCode .add,
    decode_aluCode .subxy, decode_aluCode .subyx, decode_aluCode .and, decode_aluCode .or, decode_aluCode .mul,
    decode_aluCode .div⟩, fun d => ?_⟩
  rw [decode_alu6_refused_iff]
  revert d
  decide

/-- Settles O24: each row is its function's `aluInstr`, which answers with what its code computes. -/
theorem aluRowsAnswerWithTheirFunction : Obligations.AluRowsAnswerWithTheirFunction := fun _ =>
  ⟨exec_aluInstr_observes .zero, exec_aluInstr_observes .one, exec_aluInstr_observes .minus1,
    exec_aluInstr_observes .passx, exec_aluInstr_observes .passy, exec_aluInstr_observes .notx,
    exec_aluInstr_observes .noty, exec_aluInstr_observes .negx, exec_aluInstr_observes .negy,
    exec_aluInstr_observes .incx, exec_aluInstr_observes .incy, exec_aluInstr_observes .decx,
    exec_aluInstr_observes .decy, exec_aluInstr_observes .add, exec_aluInstr_observes .subxy,
    exec_aluInstr_observes .subyx, exec_aluInstr_observes .and, exec_aluInstr_observes .or,
    exec_aluInstr_observes .mul, exec_aluInstr_observes .div⟩

/-- Settles O25: the constants do not read their operands. -/
theorem aluConstants : Obligations.AluConstants := fun x y =>
  ⟨(aluCompute_aluCode .zero x y).trans (aluResult_self 0x0000#16),
    (aluCompute_aluCode .one x y).trans (aluResult_self 0x0001#16),
    (aluCompute_aluCode .minus1 x y).trans (aluResult_self 0xFFFF#16)⟩

/-- Settles O26, by the outputs for a word passed on and for its complement. -/
theorem aluPassAndComplement : Obligations.AluPassAndComplement := fun x y =>
  ⟨(aluCompute_aluCode .passx x y).trans (aluResult_self x), (aluCompute_aluCode .passy x y).trans (aluResult_self y),
    (aluCompute_aluCode .notx x y).trans (aluResult_not x), (aluCompute_aluCode .noty x y).trans (aluResult_not y)⟩

/-- Settles O31: bit 15 of the result is the operation on the operands' bits 15. -/
theorem aluAndOr : Obligations.AluAndOr := fun x y =>
  ⟨(aluCompute_aluCode .and x y).trans (aluFnAnd_eq x y), (aluCompute_aluCode .or x y).trans (aluFnOr_eq x y)⟩

/-- Settles O37: both go `throughAlu`, and neither code is that of DIV. -/
theorem engineDrivesTheAluForAddAndMul : Obligations.EngineDrivesTheAluForAddAndMul := by
  refine ⟨fun f s => ?_, fun f s => rfl, fun x y => ⟨?_, ?_⟩⟩
  · rw [← immWord_eq_ofNat]
    rfl
  · exact aluCompute_cond_ok x y (g := .add) (by decide)
  · exact aluCompute_cond_ok x y (g := .mul) (by decide)

/-- Settles O38: the step's answer to a presented code, and what the ALU computes for an undefined one. -/
theorem presentedAluCodeIsAnswered : Obligations.PresentedAluCodeIsAnswered := by
  refine ⟨fun s d h => step_of_drive h, fun s d h undefined => ⟨_, step_of_drive h, rfl, ?_⟩⟩
  rw [aluCompute_of_undefined _ _ undefined]
  rfl

end Sys2Proof.Machine

/-!
PROOFS. The statements on the engine (41_engine.md): dispatch, the absorbing Halted state, how the outer step and the
run group `exec1`, and the invariant. A step's four situations and the invariant's lemmas are those of the
statements on the state, above.
-/

namespace Sys2Proof.Machine

variable {s t u : State} {d : AluCode} {i : Instr}

/-! ## Dispatch of a presented code (R73) -/

theorem step_of_drive_decodes (hd : s.alu.drive = some d) (hi : decode (.alu6 d) = .ok i) :
    step s = exec i s.aluRelease := by
  simp only [step, frontEnd, hd, aluFront, hi]

/-! ## Halted absorbs (R127) -/

theorem core_run_of_halted (k : Nat) (hd : s.alu.drive = none) (hr : s.running = false) :
    Sys2Proof.core.run k s = .next s := by
  induction k with
  | zero => rfl
  | succ k ih => rw [core_run_succ (step_of_halted hd hr), ih]

/-- A halted engine answers at most a code presented to the ALU. -/
theorem step_of_halted_frame (hr : s.running = false) (h : step s = .next t) : t = { s with alu := t.alu } := by
  cases hd : s.alu.drive with
  | none =>
    obtain rfl := Host.Outcome.next.inj ((step_of_halted hd hr).symm.trans h)
    rfl
  | some d =>
    obtain rfl := Host.Outcome.next.inj ((step_of_drive hd).symm.trans h)
    rfl

theorem core_run_of_halted_frame {k : Nat} (hr : s.running = false) (h : Sys2Proof.core.run k s = .next t) :
    t = { s with alu := t.alu } := by
  induction k generalizing s with
  | zero =>
    obtain rfl := Host.Outcome.next.inj h
    rfl
  | succ k ih =>
    obtain ⟨u, hstep, hrest⟩ := core_run_succ_next h
    have hu : u = { s with alu := u.alu } := step_of_halted_frame hr hstep
    have hur : u.running = false := (congrArg State.running hu).trans hr
    calc t = { u with alu := t.alu } := ih hur hrest
      _ = { s with alu := t.alu } := congrArg (fun v : State => { v with alu := t.alu }) hu

/-! ## The outer step and the run (R126, R129) -/

/-- R126: an outer step takes one `exec1`, and then goes on exactly if that ran a CALL or a RET and the engine
still runs. -/
theorem outerStep_succ_eq_some_iff {n : Nat} :
    outerStep (n + 1) s = some t ↔ ∃ u, step s = .next u ∧
      ((u.running = true ∧ s.issuesCallOrRet = true) ∧ outerStep n u = some t ∨
        (u.running = false ∨ s.issuesCallOrRet = false) ∧ u = t) := by
  cases h : step s with
  | next u => cases hr : u.running <;> cases hc : s.issuesCallOrRet <;> simp [outerStep, h, hr, hc]
  | fault e => simp [outerStep, h]
  | refused r => simp [outerStep, h]

theorem run_zero_eq_some_iff : run 0 s = some t ↔ s.running = false ∧ s = t := by
  cases hr : s.running <;> simp [run, hr]

/-- R129: a run is over at once in a halted engine, and otherwise takes one `exec1` and goes on. -/
theorem run_succ_eq_some_iff {n : Nat} :
    run (n + 1) s = some t ↔
      s.running = false ∧ s = t ∨ s.running = true ∧ ∃ u, step s = .next u ∧ run n u = some t := by
  cases hr : s.running with
  | false => simp [run, hr]
  | true => cases h : step s <;> simp [run, hr, h]

/-- R126: `k` single steps from `s` to `t` that make up one outer step: each but the last runs a CALL or a RET, and
after the last the engine is halted or the last was neither. -/
def OuterGroup (k : Nat) (s t : State) : Prop :=
  Sys2Proof.core.run k s = .next t ∧
    ∀ j : Nat, j < k → ∃ u : State, Sys2Proof.core.run j s = .next u ∧
      (j + 1 < k → u.issuesCallOrRet = true) ∧
      (j + 1 = k → t.running = false ∨ u.issuesCallOrRet = false)

theorem OuterGroup.single (h : step s = .next t) (hend : t.running = false ∨ s.issuesCallOrRet = false) :
    OuterGroup 1 s t := by
  refine ⟨core_run_succ h, fun j hj => ?_⟩
  obtain rfl : j = 0 := by omega
  exact ⟨s, rfl, fun hlt => absurd hlt (by omega), fun _ => hend⟩

theorem OuterGroup.cons {k : Nat} (h : step s = .next u) (hc : s.issuesCallOrRet = true) (hk : 1 ≤ k)
    (hg : OuterGroup k u t) : OuterGroup (k + 1) s t := by
  obtain ⟨hrun, hsteps⟩ := hg
  refine ⟨(core_run_succ h).trans hrun, fun j hj => ?_⟩
  cases j with
  | zero => exact ⟨s, rfl, fun _ => hc, fun hlast => absurd hlast (by omega)⟩
  | succ j =>
    obtain ⟨v, hv, hmore, hlast⟩ := hsteps j (by omega)
    exact ⟨v, (core_run_succ h).trans hv, fun hlt => hmore (by omega), fun heq => hlast (by omega)⟩

theorem outerStep_groups {n : Nat} (h : outerStep n s = some t) : ∃ k, 1 ≤ k ∧ k ≤ n ∧ OuterGroup k s t := by
  induction n generalizing s with
  | zero => nomatch h
  | succ n ih =>
    obtain ⟨u, hstep, ⟨⟨-, hc⟩, hrest⟩ | ⟨hend, rfl⟩⟩ := outerStep_succ_eq_some_iff.mp h
    · obtain ⟨k, hk, hkn, hg⟩ := ih hrest
      exact ⟨k + 1, by omega, by omega, hg.cons hstep hc hk⟩
    · exact ⟨1, by omega, by omega, .single hstep hend⟩

theorem run_groups {n : Nat} (h : run n s = some t) :
    t.running = false ∧ ∃ k, k ≤ n ∧ Sys2Proof.core.run k s = .next t := by
  induction n generalizing s with
  | zero =>
    obtain ⟨hr, rfl⟩ := run_zero_eq_some_iff.mp h
    exact ⟨hr, 0, Nat.le_refl 0, rfl⟩
  | succ n ih =>
    obtain ⟨hr, rfl⟩ | ⟨-, u, hstep, hrest⟩ := run_succ_eq_some_iff.mp h
    · exact ⟨hr, 0, Nat.zero_le _, rfl⟩
    · obtain ⟨htr, k, hk, hrun⟩ := ih hrest
      exact ⟨htr, k + 1, Nat.succ_le_succ hk, (core_run_succ hstep).trans hrun⟩

/-! ## The obligations -/

/-- Settles O45: from the invariant a step's one answer is a state that meets it. -/
theorem everyStepKeepsTheInvariant : Obligations.EveryStepKeepsTheInvariant := by
  intro s t hs h
  obtain ⟨u, hu, hinv⟩ := step_completes_inv hs
  obtain rfl := Host.Outcome.next.inj (hu.symm.trans h)
  exact hinv

/-- Settles O46: with SP at most 399 the stack accesses of CALL and RET, the only ones that could fault, stay in
memory. -/
theorem everyStepCompletes : Obligations.EveryStepCompletes := by
  intro s hs
  obtain ⟨t, ht, -⟩ := step_completes_inv hs
  exact ⟨t, ht⟩

/-- Settles O41: a halted step is idle, or answers the ALU's user only. -/
theorem haltedAbsorbs : Obligations.HaltedAbsorbs := by
  refine ⟨fun k s hr hd => ⟨core_run_of_halted k hd hr, ?_⟩, fun k s t hr h => core_run_of_halted_frame hr h⟩
  exact outerStep_succ_eq_some_iff.mpr ⟨s, step_of_halted hd hr, .inr ⟨.inl hr, rfl⟩⟩

/-- Settles O59, by induction on the bound, one `exec1` at a time. -/
theorem outerStepAndRunGroupSteps : Obligations.OuterStepAndRunGroupSteps :=
  ⟨fun _ _ _ h => outerStep_groups h, fun _ _ _ h => run_groups h⟩

/-- Settles O39: a fetched word and a presented code that decodes are both dispatched to `exec`. -/
theorem stepRunsTheDecodedInstruction : Obligations.StepRunsTheDecodedInstruction :=
  ⟨fun _ _ hf => step_of_fetches hf, fun _ _ _ hd hi => step_of_drive_decodes hd hi⟩

/-- Settles O44: the reset memory is the empty list. -/
theorem resetMeetsTheInvariant : Obligations.ResetMeetsTheInvariant := reset_inv_of_mem Memory.wf_nil

end Sys2Proof.Machine

/-!
PROOFS. The statements on NOP and MOV (42_nop_mov.md): the decoding of a word written as its four fields, and the
meaning of each instruction as the one change it makes.
-/

namespace Sys2Proof.Machine

/-! ## A word written as its four fields (R51, R53) -/

theorem packWord_eq_append (op : BitVec 4) (f : Fields) : packWord op f = op ++ f.reg1 ++ f.reg2 ++ f.imm := by
  simp only [packWord, encodeFields, BitVec.ofNat_toNat, BitVec.setWidth_eq]

theorem decodeWord_append (m : Opcode) (f : Fields) :
    decodeWord (opmap m ++ f.reg1 ++ f.reg2 ++ f.imm) = instrOf m f := by
  rw [← packWord_eq_append, decodeWord_packWord_opmap]

/-! ## What NOP and MOV do (R140, R141) -/

theorem exec_nop (f : Fields) (s : State) : exec (.nop f) s = .next s := rfl

theorem exec_mov (f : Fields) (s : State) : exec (.mov f) s = .next (s.setReg f.reg1 (immWord f)) := rfl

/-- R140: what is left of a step once NOP has done nothing is the fetch's advance of IP. -/
theorem step_of_fetches_nop {s : State} {w : Word} (h : s.Fetches w) (hop : w.extractLsb' 12 4 = opmap .nop) :
    step s = .next s.advance :=
  calc step s = exec (decodeWord w) s.advance := step_of_fetches h
    _ = exec (.nop (decodeFields w).2) s.advance := by rw [decodeWord_of_opcode hop, instrOf]
    _ = .next s.advance := exec_nop _ _

/-! ## The obligations -/

/-- Settles O8: NOP returns its state, so a step that fetches it is the advance of IP. -/
theorem nopChangesNothing : Obligations.NopChangesNothing :=
  ⟨fun a b i => decodeWord_append .nop ⟨a, b, i⟩, exec_nop, fun _ _ h hop => step_of_fetches_nop h hop⟩

/-- Settles O9: MOV is one register write, of the zero-extended immediate. -/
theorem movWritesTheImmediate : Obligations.MovWritesTheImmediate := by
  refine ⟨fun a b i => decodeWord_append .mov ⟨a, b, i⟩, fun f s => ?_⟩
  rw [exec_mov, immWord_eq_ofNat, State.setReg]

end Sys2Proof.Machine

/-!
PROOFS. The statements on ADD, SUB, AND, OR, MUL and DIV (43_arith_logic.md), in the source's three kinds: ADD and MUL take
the ALU's outputs, SUB has its own flags, AND, OR and DIV write a result and its two flags.
-/

namespace Sys2Proof.Machine

variable {s : State} {f : Fields} {x y out : Word}

/-! ## The meaning of each instruction as its shared operation -/

theorem exec_add (f : Fields) (s : State) :
    exec (.add f) s = .next (s.throughAlu .add f.reg1 (s.reg f.reg1) (immWord f)) := rfl

theorem exec_mul (f : Fields) (s : State) :
    exec (.mul f) s = .next (s.throughAlu .mul f.reg1 (s.reg f.reg1) (s.reg f.reg2)) := rfl

theorem exec_sub (f : Fields) (s : State) :
    exec (.sub f) s = .next ((s.setReg f.reg1 (s.reg f.reg1 - immWord f)).setFlags
      (subFlags (s.reg f.reg1) (immWord f) (s.reg f.reg1 - immWord f))) := rfl

theorem exec_and (f : Fields) (s : State) :
    exec (.and f) s = .next (s.bypassAlu f.reg1 (s.reg f.reg1 &&& s.reg f.reg2)) := rfl

theorem exec_or (f : Fields) (s : State) :
    exec (.or f) s = .next (s.bypassAlu f.reg1 (s.reg f.reg1 ||| s.reg f.reg2)) := rfl

theorem exec_div_of_zero (h : s.reg f.reg2 = 0#16) : exec (.div f) s = .next (s.raise .divideByZero) := by
  have divisor : (s.operand2 f).toNat = 0 := congrArg BitVec.toNat h
  exact (execDiv_eq f).trans (by rw [if_pos divisor])

theorem exec_div_of_ne_zero (h : s.reg f.reg2 ≠ 0#16) :
    exec (.div f) s = .next (s.bypassAlu f.reg1 (s.reg f.reg1 / s.reg f.reg2)) := by
  have divisor : (s.operand2 f).toNat ≠ 0 := fun h0 => h (BitVec.eq_of_toNat_eq h0)
  have quotient : BitVec.ofNat 16 ((s.operand1 f).toNat / (s.operand2 f).toNat) = s.reg f.reg1 / s.reg f.reg2 :=
    (BitVec.udiv_def ..).symm
  exact (execDiv_eq f).trans (by rw [if_neg divisor, quotient])

/-! ## The flags of a result (R76) -/

theorem zeroFlag_eq_decide {P : Prop} [Decidable P] (h : out = 0#16 ↔ P) : zeroFlag out = decide P := by
  rw [zeroFlag, Bool.beq_eq_decide_eq, decide_eq_decide, h]

theorem negFlag_eq_getLsbD (out : Word) : negFlag out = out.getLsbD 15 := BitVec.msb_eq_getLsbD_last out

/-! ## Through the ALU (R104, R128): ADD and MUL -/

/-- Once the function's outputs are known, so is the state: the result and all four flags, nothing else. -/
theorem State.throughAlu_eq {fl : Flags} {c : AluCond} (g : AluFn) (dst : RegNum)
    (h : aluApply g x y = ⟨out, fl, c⟩) :
    s.throughAlu g dst x y = { s with regs := s.regs.set dst.toNat out dst.isLt, flags := fl } := by
  rw [State.throughAlu, aluCompute_aluCode, h]
  rfl

theorem immWord_toNat (f : Fields) : (immWord f).toNat = f.imm.toNat :=
  BitVec.toNat_setWidth_of_le (by decide)

theorem immWord_toNat_lt (f : Fields) : (immWord f).toNat < 64 := immWord_toNat f ▸ f.imm.isLt

/-- R145: the immediate is never negative. -/
theorem immWord_toInt (f : Fields) : (immWord f).toInt = f.imm.toNat := by
  have small := immWord_toNat_lt f
  rw [BitVec.toInt_eq_toNat_of_lt (by omega), immWord_toNat]

theorem aluFnAdd_immWord (x : Word) (f : Fields) :
    aluFnAdd x (immWord f) = ⟨BitVec.ofNat 16 (x.toNat + f.imm.toNat),
      ⟨decide ((x.toNat + f.imm.toNat) % 65536 = 0), (BitVec.ofNat 16 (x.toNat + f.imm.toNat)).getLsbD 15,
        decide (x.toInt + (f.imm.toNat : Int) < -32768 ∨ 32767 < x.toInt + (f.imm.toNat : Int)),
        decide (65536 ≤ x.toNat + f.imm.toNat)⟩, .ok⟩ := by
  have sum : x + immWord f = BitVec.ofNat 16 (x.toNat + f.imm.toNat) := by
    rw [BitVec.add_def, immWord_toNat]
  have zr : decide (BitVec.ofNat 16 (x.toNat + f.imm.toNat) = 0#16)
      = decide ((x.toNat + f.imm.toNat) % 65536 = 0) := by
    rw [decide_eq_decide, BitVec.toNat_eq, BitVec.toNat_ofNat]
    rfl
  rw [aluFnAdd_eq, sum, zr, immWord_toInt, immWord_toNat]

/-! ## SUB's own flags (R146) -/

theorem toInt_neg_iff_toNat (x : Word) : x.toInt < 0 ↔ 0x8000 ≤ x.toNat := by
  rw [BitVec.toInt_neg_iff]
  omega

theorem toInt_pos_iff_toNat (x : Word) : 0 < x.toInt ↔ 0 < x.toNat ∧ x.toNat < 0x8000 := by
  rw [BitVec.toInt_eq_toNat_cond]
  have := x.isLt
  split <;> omega

/-- R146, which the spec marks as derived: for a subtrahend that is not negative the proxy `-m` is never positive, so
only the second half of the heuristic can hold. -/
theorem subHeuristic_eq (x : Word) {m : Word} (hm : m.toNat < 0x8000) :
    subHeuristic x (0#16 - m) (x - m) = decide (0x8000 ≤ x.toNat ∧ x.toNat < 0x8000 + m.toNat) := by
  simp only [subHeuristic, ← Bool.decide_and, ← Bool.decide_or, decide_eq_decide, toInt_neg_iff_toNat,
    toInt_pos_iff_toNat]
  have notPositive : ¬ (0 < (0#16 - m).toNat ∧ (0#16 - m).toNat < 0x8000) := by bv_omega
  rw [or_iff_right fun h => notPositive h.1.2]
  bv_omega

theorem sub_eq_ofInt (x y : Word) : x - y = BitVec.ofInt 16 (x.toNat - (y.toNat : Int)) := by
  rw [Int.sub_eq_add_neg, BitVec.ofInt_add, BitVec.ofInt_neg, BitVec.ofInt_natCast, BitVec.ofInt_natCast]
  simp only [BitVec.ofNat_toNat, BitVec.setWidth_eq, BitVec.sub_eq_add_neg]

theorem subFlags_immWord (x : Word) (f : Fields) :
    subFlags x (immWord f) (x - immWord f) =
      { zr := decide (x.toNat = f.imm.toNat)
        ng := (x - immWord f).getLsbD 15
        ov := decide (0x8000 ≤ x.toNat ∧ x.toNat < 0x8000 + f.imm.toNat)
        cy := decide (x.toNat < f.imm.toNat) } := by
  have small := immWord_toNat_lt f
  have hz : x - immWord f = 0#16 ↔ x.toNat = f.imm.toNat := by
    rw [← immWord_toNat, ← BitVec.toNat_eq]
    exact sub_eq_zero
  rw [subFlags, zeroFlag_eq_decide hz, negFlag_eq_getLsbD, subHeuristic_eq x (by omega), borrowFlag,
    immWord_toNat]

/-! ## Around the ALU (R147, R148, R150): AND, OR and DIV -/

/-- The result and its two flags in the words of the instruction's rule; `ov` and `cy` stay. -/
theorem State.bypassAlu_eq {ng : Bool} {P : Prop} [Decidable P] (dst : RegNum) (hz : out = 0#16 ↔ P)
    (hn : out.getLsbD 15 = ng) :
    s.bypassAlu dst out =
      { s with
        regs := s.regs.set dst.toNat out dst.isLt
        flags := { zr := decide P, ng := ng, ov := s.flags.ov, cy := s.flags.cy } } := by
  rw [State.bypassAlu, logicFlags, zeroFlag_eq_decide hz, negFlag_eq_getLsbD, hn]
  rfl

/-! ## The obligations -/

/-- Settles O10: the ALU's ADD, with the zero-extended immediate as its second operand. -/
theorem addSumsWithCarryAndSignedOverflow : Obligations.AddSumsWithCarryAndSignedOverflow := by
  refine ⟨fun a b i => decodeWord_append .add ⟨a, b, i⟩, fun f s => ?_⟩
  rw [exec_add, State.throughAlu_eq .add f.reg1 (aluFnAdd_immWord (s.reg f.reg1) f)]

/-- Settles O11, by the numbers of the heuristic for a subtrahend below 64. -/
theorem subBorrowsAndOverflowsAsItsHeuristicSays : Obligations.SubBorrowsAndOverflowsAsItsHeuristicSays := by
  refine ⟨fun a b i => decodeWord_append .sub ⟨a, b, i⟩, fun f s => ?_⟩
  rw [exec_sub, subFlags_immWord, sub_eq_ofInt, immWord_toNat]
  rfl

/-- Settles O13: the ALU's MUL on the two registers. -/
theorem mulKeepsTheLowHalfOfTheProduct : Obligations.MulKeepsTheLowHalfOfTheProduct := by
  refine ⟨fun a b i => decodeWord_append .mul ⟨a, b, i⟩, fun f s => ?_⟩
  rw [exec_mul, State.throughAlu_eq .mul f.reg1 (aluFnMul_eq (s.reg f.reg1) (s.reg f.reg2))]

/-- Settles O14: a zero divisor raises, any other gives the quotient and its two flags. -/
theorem divDividesOrStops : Obligations.DivDividesOrStops := by
  refine ⟨fun a b i => decodeWord_append .div ⟨a, b, i⟩, fun f s h => ?quotient, fun f s h => exec_div_of_zero h⟩
  case quotient =>
    have hz : s.reg f.reg1 / s.reg f.reg2 = 0#16 ↔ (s.reg f.reg1).toNat / (s.reg f.reg2).toNat = 0 := by
      rw [← BitVec.toNat_udiv]
      exact BitVec.toNat_eq
    rw [exec_div_of_ne_zero h, State.bypassAlu_eq f.reg1 hz rfl]

/-- Settles O12: both flags of a bitwise result are read off the operands. -/
theorem andOrWriteResultAndTwoFlags : Obligations.AndOrWriteResultAndTwoFlags := by
  refine ⟨fun a b i => ⟨decodeWord_append .and ⟨a, b, i⟩, decodeWord_append .or ⟨a, b, i⟩⟩, fun f s => ⟨?_, ?_⟩⟩
  · rw [exec_and, State.bypassAlu_eq f.reg1 Iff.rfl BitVec.getLsbD_and]
  · rw [exec_or, State.bypassAlu_eq f.reg1 BitVec.or_eq_zero_iff BitVec.getLsbD_or]

end Sys2Proof.Machine

/-!
PROOFS. The statements on JMP, JZ, CALL, RET and HALT (44_control.md): one equation for each outcome of each instruction,
and from them the statements, with the return to the instruction after a CALL.
-/

namespace Sys2Proof.Machine

variable {s t : State}

/-! ## The outcomes of each instruction -/

theorem exec_jmp (f : Fields) (s : State) : exec (.jmp f) s = .next (s.setIp (immWord f)) := rfl

theorem exec_jz (f : Fields) (s : State) :
    exec (.jz f) s = .next (if s.flags.zr then s.setIp (immWord f) else s) := execJz_eq f

theorem exec_halt (f : Fields) (s : State) : exec (.halt f) s = .next (s.raise .halt) := rfl

/-- R183: CALL with the stack full. -/
theorem exec_call_of_full (f : Fields) (h : s.sp.toNat = 0) :
    exec (.call f) s = .next (s.raise .stackOverflow) :=
  (execCall_next f).mpr (.inl ⟨h, rfl⟩)

/-- R162: CALL with room on the stack. -/
theorem exec_call_of_room (f : Fields) (hpos : 1 ≤ s.sp.toNat) (hmax : s.sp.toNat ≤ 399) :
    exec (.call f) s = .next
      { s with
        mem := s.mem.set s.sp.toNat s.ip
        sp := s.sp - 1#16
        ip := immWord f
        depth := (s.depth + 1) % 2 ^ s.depthBits } :=
  (execCall_next f).mpr (.inr ⟨by omega, by omega, rfl⟩)

/-- R184: RET with the stack empty. -/
theorem exec_ret_of_empty (f : Fields) (h : s.sp.toNat = 399) :
    exec (.ret f) s = .next (s.raise .stackUnderflow) :=
  (execRet_next f).mpr (.inl ⟨BitVec.eq_of_toNat_eq h, rfl⟩)

/-- R163: RET with a word on the stack; below 399, SP + 1 does not wrap. -/
theorem exec_ret_of_occupied (f : Fields) (h : s.sp.toNat ≤ 398) :
    exec (.ret f) s = .next { s with sp := s.sp + 1#16, ip := s.mem.get (s.sp.toNat + 1) } := by
  have slot : (s.sp + 1#16).toNat = s.sp.toNat + 1 := by bv_omega
  have notEmpty : s.sp ≠ 399#16 := by bv_omega
  rw [← slot]
  exact (execRet_next f).mpr (.inr ⟨notEmpty, by bv_omega, rfl⟩)

/-! ## A CALL and its RET -/

/-- R162: what a CALL with room leaves for the RET: SP one lower, and the old IP in the slot it left. -/
theorem exec_call_leaves_frame {f : Fields} (hmem : s.mem.wf = true) (hpos : 1 ≤ s.sp.toNat)
    (hmax : s.sp.toNat ≤ 399) (hcall : exec (.call f) s = .next t) :
    t.sp = s.sp - 1#16 ∧ t.mem.get s.sp.toNat = s.ip := by
  obtain rfl := Host.Outcome.next.inj ((exec_call_of_room f hpos hmax).symm.trans hcall)
  exact ⟨rfl, by rw [Memory.get_set _ _ hmem, if_pos rfl]⟩

/-! ## The obligations -/

/-- Settles O16: the push is one `Memory.set` at SP, read back by `Memory.get_set`. -/
theorem callPushesAndJumpsOrOverflows : Obligations.CallPushesAndJumpsOrOverflows := by
  refine ⟨fun a b i => decodeWord_append .call ⟨a, b, i⟩, fun f s hpos hmax => ?room,
    fun f s h => exec_call_of_full f h⟩
  case room =>
    refine ⟨_, exec_call_of_room f hpos hmax, ?_, fun hmem a => Memory.get_set _ _ hmem⟩
    rw [immWord_eq_ofNat]

/-- Settles O55: from the CALL's frame, the slot above the RET's SP is the CALL's own slot. -/
theorem retReturnsAfterItsCall : Obligations.RetReturnsAfterItsCall := by
  intro f g s t u hmem hpos hmax hcall husp hslot
  obtain ⟨htsp, htslot⟩ := exec_call_leaves_frame hmem hpos hmax hcall
  have restored : u.sp + 1#16 = s.sp := by rw [husp, htsp, BitVec.sub_add_cancel]
  have slot : u.sp.toNat + 1 = s.sp.toNat := by bv_omega
  rw [exec_ret_of_occupied g (by omega), restored, slot, hslot, htslot]

/-- Settles O15: a jump is one write of IP, by the zero-extended immediate. -/
theorem jumpsReplaceIp : Obligations.JumpsReplaceIp := by
  refine ⟨fun a b i => ⟨decodeWord_append .jmp ⟨a, b, i⟩, decodeWord_append .jz ⟨a, b, i⟩⟩, fun f s => ⟨?_, ?_⟩⟩
  · rw [exec_jmp, immWord_eq_ofNat, State.setIp]
  · rw [exec_jz, immWord_eq_ofNat, State.setIp]

/-- Settles O17: the two outcomes of RET, by whether SP is below 399. -/
theorem retPopsOrUnderflows : Obligations.RetPopsOrUnderflows :=
  ⟨fun a b i => decodeWord_append .ret ⟨a, b, i⟩, fun f _ h => exec_ret_of_occupied f h,
    fun f _ h => exec_ret_of_empty f h⟩

/-- Settles O19: HALT raises its own reason. -/
theorem haltStopsNormally : Obligations.HaltStopsNormally :=
  ⟨fun a b i => decodeWord_append .halt ⟨a, b, i⟩, exec_halt⟩

end Sys2Proof.Machine

/-!
PROOFS. The statements on LOAD and STORE (45_load_store.md): each is one bounded access, so what is known of the bounded read
and write is what is known of them.
-/

namespace Sys2Proof.Machine

/-! ## The meaning of each instruction as its bounded access (R175, R176) -/

theorem exec_load (f : Fields) (s : State) :
    exec (.load f) s = .next (s.setReg f.reg1 (s.memRead (s.reg f.reg2))) := rfl

theorem exec_store (f : Fields) (s : State) :
    exec (.store f) s = .next (s.memWrite (s.reg f.reg2) (s.reg f.reg1)) := rfl

/-! ## A write beyond the memory -/

/-- R32: a write at 400 or above is dropped, and emits nothing because the port lies below 400. -/
theorem State.memWrite_of_beyond {s : State} {a : Word} (v : Word) (h : 400 ≤ a.toNat) : s.memWrite a v = s := by
  have notPort : a.toNat ≠ 32 := by omega
  have notStored : ¬ a.toNat < Config.memWords := Nat.not_lt.mpr h
  rw [State.memWrite_eq, State.memWrite_mem, if_neg notStored, if_neg notPort]

/-! ## The obligations -/

/-- Settles O23: STORE is one bounded write, so its frame, its drop beyond the memory and what is read after it are the
bounded write's. -/
theorem storeWritesOneWordAndThePort : Obligations.StoreWritesOneWordAndThePort := by
  refine ⟨fun a b i => decodeWord_append .store ⟨a, b, i⟩, fun f s =>
    ⟨_, exec_store f s, s.memWrite_eq _ _, State.memWrite_of_beyond _, fun hmem a => ?readBack⟩⟩
  case readBack =>
    have inside : a = (s.reg f.reg2).toNat ∧ (s.reg f.reg2).toNat < 400 ↔ a = (s.reg f.reg2).toNat ∧ a < 400 :=
      and_congr_right fun same => by rw [same]
    rw [State.memWrite_get _ _ a hmem, if_congr inside rfl rfl]

/-- Settles O22: LOAD is one register write, of what the bounded read answers. -/
theorem loadReadsMemoryOrZero : Obligations.LoadReadsMemoryOrZero := by
  refine ⟨fun a b i => decodeWord_append .load ⟨a, b, i⟩, fun f s => ?_⟩
  rw [exec_load, State.memRead, State.setReg]

end Sys2Proof.Machine

/-!
PROOFS. The statements on stopping (60_exceptions.md): each opcode can stop the engine for at most one reason, so a step
either raises the one reason whose cause holds or leaves `running` and `reason` as they are.
-/

namespace Sys2Proof.Machine

variable {s t : State} {w : Word} {f : Fields} {op : BitVec 4} {r r' : StopReason}

/-! ## The causes exclude each other (R180 to R185) -/

/-- R181 to R185: the one reason for which an opcode can stop the engine, `none` if it cannot. -/
def stopReasonOf (op : BitVec 4) : StopReason :=
  match op with
  | 7 => .divideByZero
  | 10 => .stackOverflow
  | 11 => .stackUnderflow
  | 12 => .halt
  | 15 => .unimplementedInstruction
  | _ => .none

theorem StopCause.reason_eq (h : StopCause f s op r) : r = stopReasonOf op := by
  cases r with
  | none | fetchOutOfRange => exact h.elim
  | halt | unimplementedInstruction =>
    obtain rfl := h
    rfl
  | divideByZero | stackOverflow | stackUnderflow =>
    obtain ⟨rfl, -⟩ := h
    rfl

/-- R189: no two causes hold together. -/
theorem StopCause.unique (h : StopCause f s op r) (h' : StopCause f s op r') : r = r' :=
  h.reason_eq.trans h'.reason_eq.symm

theorem not_stopCause_of_opcode (h : stopReasonOf op = .none) : ¬ StopCause f s op r :=
  fun hc => hc.reason_ne_none (hc.reason_eq.trans h)

theorem StopCause.reason_mem (h : StopCause f s op r) :
    r ∈ [StopReason.halt, .divideByZero, .stackOverflow, .stackUnderflow, .unimplementedInstruction] := by
  cases r with
  | none | fetchOutOfRange => exact h.elim
  | _ => decide

/-! ## Stop or go on (R189, R190) -/

/-- R189: an instruction raises the reason whose cause holds; if none holds, `running` and `reason` stay. -/
theorem WordEffect.stops_or_continues (h : WordEffect f s op t) :
    (∃ r, StopCause f s op r ∧ t = s.raise r) ∨
      (∀ r, ¬ StopCause f s op r) ∧ t.running = s.running ∧ t.reason = s.reason := by
  cases h with
  | stop hc => exact .inl ⟨_, hc, rfl⟩
  | nothing hop =>
    exact .inr ⟨fun _ => not_stopCause_of_opcode (by rcases hop with rfl | ⟨rfl, -⟩ <;> rfl), rfl, rfl⟩
  | move _ hop => exact .inr ⟨fun _ => not_stopCause_of_opcode (by rcases hop with rfl | rfl <;> rfl), rfl, rfl⟩
  | arith _ _ hop =>
    exact .inr ⟨fun _ => not_stopCause_of_opcode (by rcases hop with rfl | rfl | rfl <;> rfl), rfl, rfl⟩
  | jump hop =>
    exact .inr ⟨fun _ => not_stopCause_of_opcode (by rcases hop with rfl | ⟨rfl, -⟩ <;> rfl), rfl, rfl⟩
  | store => exact .inr ⟨fun _ => not_stopCause_of_opcode rfl, s.memWrite_running _ _, s.memWrite_reason _ _⟩
  | logic _ hop =>
    refine .inr ⟨fun r hc => ?_, rfl, rfl⟩
    obtain rfl | rfl | ⟨rfl, hdivisor⟩ := hop
    · exact not_stopCause_of_opcode rfl hc
    · exact not_stopCause_of_opcode rfl hc
    · obtain rfl : r = .divideByZero := hc.reason_eq
      exact hdivisor hc.2
  | call hroom _ =>
    refine .inr ⟨fun r hc => ?_, rfl, rfl⟩
    obtain rfl : r = .stackOverflow := hc.reason_eq
    exact hroom hc.2
  | ret hoccupied _ =>
    refine .inr ⟨fun r hc => ?_, rfl, rfl⟩
    obtain rfl : r = .stackUnderflow := hc.reason_eq
    exact hoccupied hc.2

theorem WordEffect.reason_eq_iff (h : WordEffect f s op t) (hs : s.reason = .none) (hr : r ≠ .none) :
    t.reason = r ↔ StopCause f s op r := by
  obtain ⟨r', hc, rfl⟩ | ⟨hnone, -, hreason⟩ := h.stops_or_continues
  · exact ⟨fun heq => heq ▸ hc, hc.unique⟩
  · exact iff_of_false (fun heq => hr (heq.symm.trans (hreason.trans hs))) (hnone r)

/-- R15: `running` and `reason` keep saying the same. -/
theorem WordEffect.running_iff (h : WordEffect f s op t) (hs : s.running = true ↔ s.reason = .none) :
    t.running = true ↔ t.reason = .none := by
  obtain ⟨r, hc, rfl⟩ | ⟨-, hrun, hreason⟩ := h.stops_or_continues
  · exact iff_of_false Bool.false_ne_true hc.reason_ne_none
  · rw [hrun, hreason, hs]

/-! ## The reserved opcode (R57, R185) -/

theorem exec_reserved15 (f : Fields) (s : State) :
    exec (.reserved15 f) s = .next (s.raise .unimplementedInstruction) := rfl

theorem decodeWord_append_reserved (f : Fields) :
    decodeWord (reservedOpcode ++ f.reg1 ++ f.reg2 ++ f.imm) = .reserved15 f := by
  rw [← packWord_eq_append, decodeWord_packWord_reserved]

/-- The opcode field is the top of the word: from 0xF000 on, every word has the reserved one. -/
theorem opcode_eq_reserved_of_le (h : 0xF000 ≤ w.toNat) : (decodeFields w).1 = reservedOpcode := by
  change w.extractLsb' 12 4 = 15#4
  apply BitVec.eq_of_toNat_eq
  rw [BitVec.extractLsb'_toNat, Nat.shiftRight_eq_div_pow, BitVec.toNat_ofNat]
  omega

theorem decodeWord_of_reserved (h : (decodeFields w).1 = reservedOpcode) :
    decodeWord w = .reserved15 (decodeFields w).2 := by
  simp [decodeWord, h, opcodeOf_reserved]

theorem step_of_fetches_reserved (hf : s.Fetches w) (h : (decodeFields w).1 = reservedOpcode) :
    step s = .next (s.advance.raise .unimplementedInstruction) :=
  calc step s = exec (decodeWord w) s.advance := step_of_fetches hf
    _ = exec (.reserved15 (decodeFields w).2) s.advance := by rw [decodeWord_of_reserved h]
    _ = .next (s.advance.raise .unimplementedInstruction) := exec_reserved15 _ _

/-! ## The status codes (R199) -/

/-- The reason of a status code; 7, which no reason has, is read as `none`. -/
def reasonOfCode (c : BitVec 3) : StopReason :=
  match c with
  | 1 => .halt
  | 2 => .divideByZero
  | 3 => .stackOverflow
  | 4 => .stackUnderflow
  | 5 => .unimplementedInstruction
  | 6 => .fetchOutOfRange
  | _ => .none

theorem reasonOfCode_haltCode : Function.LeftInverse reasonOfCode haltCode := by
  intro r
  cases r <;> rfl

theorem haltCode_ne_seven (r : StopReason) : haltCode r ≠ 7 := by
  cases r <;> decide

/-! ## The obligations -/

/-- Settles O47: of a running engine's four situations only a fetch out of range and a raising instruction leave it
halted. -/
theorem stopChangesOnlyStatusAndIp : Obligations.StopChangesOnlyStatusAndIp := by
  intro s t hr h hstopped
  obtain ⟨d, hd⟩ | ⟨-, hhalted⟩ | ⟨hd, -, hip⟩ | ⟨w, hf⟩ := step_situations s
  · obtain rfl := Host.Outcome.next.inj ((step_of_drive hd).symm.trans h)
    exact absurd (hr.symm.trans hstopped) nofun
  · exact absurd (hr.symm.trans hhalted) nofun
  · obtain rfl := Host.Outcome.next.inj ((step_of_fetch_out_of_range hd hr hip).symm.trans h)
    exact ⟨rfl, .inl ⟨rfl, rfl⟩⟩
  · obtain ⟨r, hc, rfl⟩ | ⟨-, hrun, -⟩ := (wordEffect_of_step hf h).stops_or_continues
    · exact ⟨rfl, .inr ⟨hc.reason_mem, rfl⟩⟩
    · exact absurd (hr.symm.trans (hrun.symm.trans hstopped)) nofun

/-- Settles O48: after a fetch out of range no other clause can hold; after a fetch the reason is the opcode's cause. -/
theorem eachStopHasItsOneCause : Obligations.EachStopHasItsOneCause := by
  intro s t hr hnone hd h w op
  obtain hip | hip := Nat.lt_or_ge s.ip.toNat 400
  · have eff : WordEffect (decodeFields w).2 s.advance op t := wordEffect_of_step ⟨hr, hd, hip, rfl⟩ h
    have cause {r : StopReason} {P : Prop} (hne : r ≠ .none)
        (hP : StopCause (decodeFields w).2 s.advance op r ↔ P) : t.reason = r ↔ s.ip.toNat < 400 ∧ P :=
      (eff.reason_eq_iff hnone hne).trans (hP.trans (and_iff_right hip).symm)
    refine ⟨?fetch, cause nofun Iff.rfl, cause nofun ?divisor, cause nofun Iff.rfl, cause nofun ?empty,
      cause nofun Iff.rfl, eff.running_iff (iff_of_true hr hnone)⟩
    case fetch =>
      have noCause : ¬ StopCause (decodeFields w).2 s.advance op .fetchOutOfRange := not_false
      exact iff_of_false (mt (eff.reason_eq_iff hnone (by decide)).mp noCause) (Nat.not_le.mpr hip)
    case divisor => exact and_congr_right fun _ => BitVec.toNat_inj (y := 0#16)
    case empty => exact and_congr_right fun _ => BitVec.toNat_eq
  · obtain rfl := Host.Outcome.next.inj ((step_of_fetch_out_of_range hd hr hip).symm.trans h)
    have other {r : StopReason} {P : Prop} (hne : r ≠ .fetchOutOfRange) :
        (s.raise .fetchOutOfRange).reason = r ↔ s.ip.toNat < 400 ∧ P :=
      iff_of_false hne.symm fun hfetched => Nat.not_lt.mpr hip hfetched.1
    exact ⟨iff_of_true rfl hip, other nofun, other nofun, other nofun, other nofun, other nofun,
      iff_of_false Bool.false_ne_true nofun⟩

/-- Settles O20: the reserved opcode raises its own reason, from the state the fetch leaves. -/
theorem reservedOpcodeStops : Obligations.ReservedOpcodeStops :=
  ⟨fun a b i => decodeWord_append_reserved ⟨a, b, i⟩, exec_reserved15,
    fun _ _ hf hw => step_of_fetches_reserved hf (opcode_eq_reserved_of_le hw)⟩

/-- Settles O40: one of the four situations of a step. -/
theorem fetchOutOfRangeStops : Obligations.FetchOutOfRangeStops :=
  fun _ hr hd hip => step_of_fetch_out_of_range hd hr hip

/-- Settles O60: the codes are distinct because each can be read back. -/
theorem statusCodes : Obligations.StatusCodes :=
  ⟨rfl, rfl, rfl, rfl, rfl, rfl, rfl, fun _ => rfl, fun _ _ h => reasonOfCode_haltCode.injective h,
    haltCode_ne_seven⟩

end Sys2Proof.Machine

/-!
PROOFS. The statement on the model's own fields (log entries 1 and 4): DEPTH_BITS and the ALU's own interface are in the
frame of every step that runs the engine.
-/

namespace Sys2Proof.Machine

variable {s t : State} {f : Fields} {op : BitVec 4}

theorem WordEffect.depthBits_eq (h : WordEffect f s op t) : t.depthBits = s.depthBits := by
  cases h with
  | store => exact s.memWrite_depthBits _ _
  | _ => rfl

/-- Log entry 4: the interface is its direct user's; the instructions that compute through the ALU leave it alone too. -/
theorem WordEffect.alu_eq (h : WordEffect f s op t) : t.alu = s.alu := by
  cases h with
  | store => exact s.memWrite_alu _ _
  | _ => rfl

/-- A step that answers no presented code has both of the model's own fields in its frame. -/
theorem step_frame_of_drive_none (hd : s.alu.drive = none) (h : step s = .next t) :
    t.depthBits = s.depthBits ∧ t.alu = s.alu := by
  obtain ⟨d, hpresented⟩ | ⟨-, hr⟩ | ⟨-, hr, hip⟩ | ⟨w, hf⟩ := step_situations s
  · exact absurd (hd.symm.trans hpresented) nofun
  · obtain rfl := Host.Outcome.next.inj ((step_of_halted hd hr).symm.trans h)
    exact ⟨rfl, rfl⟩
  · obtain rfl := Host.Outcome.next.inj ((step_of_fetch_out_of_range hd hr hip).symm.trans h)
    exact ⟨s.raise_depthBits _, s.raise_alu _⟩
  · have eff := wordEffect_of_step hf h
    exact ⟨eff.depthBits_eq.trans s.advance_depthBits, eff.alu_eq.trans s.advance_alu⟩

/-- Settles O58: the answer to a presented code takes the code away and sets the ALU's outputs only; every other step
leaves the ALU's own interface as it is. -/
theorem stepsLeaveTheModelsInputsAlone : Obligations.StepsLeaveTheModelsInputsAlone := by
  intro s t h
  cases hd : s.alu.drive with
  | some d =>
    obtain rfl := Host.Outcome.next.inj ((step_of_drive hd).symm.trans h)
    exact ⟨rfl, rfl, rfl, rfl, nofun⟩
  | none =>
    obtain ⟨hbits, halu⟩ := step_frame_of_drive_none hd h
    exact ⟨hbits, congrArg AluPorts.x halu, congrArg AluPorts.y halu,
      (congrArg AluPorts.drive halu).trans hd, fun _ => halu⟩

end Sys2Proof.Machine
